-- ==== Sys2Proof/Word.lean ====
section
/-! DEFINITION. The word types: bytes, transceiver register addresses and request words.

No value of this block is signed, and bit 0 is the least significant bit (R8). -/

namespace Sys2Proof

/-- One byte: what a transfer moves each way, `WIDTH` = 8 bits (R6, R8, R53). -/
abbrev Byte := BitVec 8

/-- A transceiver register address, `ADDR_WIDTH` = 7 bits (R6, R7, R73). -/
abbrev RegAddr := BitVec 7

/-- A request word, 18 bits, the one length a request has (R70, R81). -/
abbrev ReqWord := BitVec 18

end Sys2Proof
end

