-- ==== Sys2Proof/Machine/Bus.lean ====
section
/-! DEFINITION. The vocabulary of the bus: chip-select, the peripheral's flags, the bus events. -/

namespace Sys2Proof.Machine

/-- The chip-select line as the block drives it, two abstract values (R21, R22). -/
inductive ChipSelect where
  | released
  | asserted
deriving DecidableEq, Repr

/-- The two status flags the block polls (R29). -/
inductive Flag where
  /-- `TX_READY`, awaited before the byte is pushed. -/
  | txReady
  /-- `XFER_COMPLETE`, awaited after the byte is pushed. -/
  | xferComplete
deriving DecidableEq, Repr

/-- A bus event the block causes (R35). -/
inductive BusEvent where
  /-- Chip-select goes from Released to Asserted. -/
  | frameStart
  /-- The byte is pushed into the transmit path. -/
  | byteOut (v : Byte)
  /-- The received byte is read. -/
  | byteIn (v : Byte)
  /-- Chip-select goes from Asserted to Released. -/
  | frameEnd
deriving DecidableEq, Repr

/-- The level of a bus line. -/
inductive Level where
  | low
  | high
deriving DecidableEq, Repr, Inhabited

/-- The other level. -/
def Level.opposite : Level → Level
  | .low => .high
  | .high => .low

/-- An edge of a clock pulse. -/
inductive ClockEdge where
  | leading
  | trailing
deriving DecidableEq, Repr

/-- The events of asserting chip-select: a frame starts where none was open (R102). -/
def frameOpening : ChipSelect → List BusEvent
  | .released => [.frameStart]
  | .asserted => []

/-- The events of releasing chip-select: a frame ends where one was open (R9). -/
def frameClosing : ChipSelect → List BusEvent
  | .asserted => [.frameEnd]
  | .released => []

end Sys2Proof.Machine
end

