-- ==== Sys2Proof/Config.lean ====
section
/-! DEFINITION. The configuration, fixed for the whole run and no part of the state (R6, R20), and the free values
the environment answers with (R29, R30). -/

namespace Sys2Proof

open Machine (Flag BusEvent Level ClockEdge)

/-! ## The fixed literals (R6) -/

/-- `SENTINEL`, what a timed-out transfer returns (R6, R108). -/
def Config.sentinel : Byte := 0xFF

/-- `CPOL`: the clock idles low (R6, R33). -/
def Config.sckIdle : Level := .low

/-- `CPHA`: data is sampled on the trailing edge (R6, R33). -/
def Config.sampleEdge : ClockEdge := .trailing

/-- `BIT_ORDER`: the bits of a byte in wire order, bit 7 first and bit 0 last, both directions (R6, R54). -/
def Config.bitOrder : List Nat := [7, 6, 5, 4, 3, 2, 1, 0]

/-! ## Parameters -/

/-- `CS_ON_TIMEOUT`: chip-select after a timeout (R6, R108). -/
inductive CsOnTimeout where
  /-- Released unless the transfer holds. -/
  | followHold
  /-- Released. -/
  | release
  /-- Left asserted. -/
  | keep
deriving DecidableEq, Repr, Inhabited

/-- `DIAG_ON_SUCCESS`: what a success does to the recorded cause (R6, R107). -/
inductive DiagOnSuccess where
  | keep
  | clear
deriving DecidableEq, Repr, Inhabited

/-- The default place of R78 leaves bit 0 clear. -/
theorem Config.shifted_clear (a : RegAddr) : (a ++ 0#1 : Byte).getLsbD (0 : Fin 8) = false := by
  revert a; decide

/-- The default place of R78 is injective. -/
theorem Config.shifted_injective (a b : RegAddr) (h : (a ++ 0#1 : Byte) = b ++ 0#1) : a = b := by
  have h' := congrArg BitVec.toNat h
  simp only [BitVec.toNat_append] at h'
  exact BitVec.eq_of_toNat_eq (by simpa [Nat.shiftLeft_eq] using h')

/-- `CMD_LAYOUT` with the two conditions R77 sets: `place` is injective and leaves bit `rpos` clear. The values
written here are the default layout of R78, address in bits 7:1 and read bit in bit 0, taken only where a layout is
built with none given (general knowledge, G6: PRESUMED, log 19). -/
structure CmdLayout where
  /-- The position of the read bit. -/
  rpos : Fin 8 := 0
  /-- Where the address bits go. -/
  place : RegAddr → Byte := fun a => a ++ 0#1
  place_clear : ∀ a, (place a).getLsbD rpos = false := by first | exact Config.shifted_clear | decide
  place_injective : ∀ a b, place a = place b → a = b := by first | exact Config.shifted_injective | decide
deriving Inhabited

/-- The transceiver registers the document names, as context only (R51). -/
inductive TransceiverReg where
  | deviceIdentification
  | canControl
  | modeControl
  /-- The event-status registers, write-one-to-clear. -/
  | eventStatus (n : Nat)
  /-- The wake-source enables. -/
  | wakeSourceEnable (n : Nat)
  | mainStatus
  | canTransceiverStatus
deriving DecidableEq, Repr

/-- The CAN-control value Offline (R51). -/
def Config.canOffline : Byte := 0x00

/-- The CAN-control value Active (R51). -/
def Config.canActive : Byte := 0x01

/-- The configuration of R6. A value written here is the default that R6 gives the parameter; the parameters R6 calls
OPEN with no default have none. -/
structure Config where
  /-- `SPIN_MAX`, samples allowed per wait, at least 1 (R6, D6). -/
  spinMax : Nat := 100000
  spinMax_pos : 1 ≤ spinMax := by decide
  /-- `CMD_LAYOUT` (R77, D4). -/
  layout : CmdLayout := {}
  /-- `DUMMY_BYTE`, sent in the data phase of RDREG (R121, D5). -/
  dummyByte : Byte := 0x00
  /-- `CS_ON_TIMEOUT` (R108, D7). -/
  csOnTimeout : CsOnTimeout
  /-- `DIAG_ON_SUCCESS` (R107, D9). -/
  diagOnSuccess : DiagOnSuccess := .keep
  /-- `CS_ACTIVE_LEVEL`, the level of an asserted chip-select (R22, D19). -/
  csActiveLevel : Level
  /-- `SCK_HZ`, nominal; no rule depends on it (R6, D20). -/
  sckHz : Nat := 1000000
  /-- `REG_MAP`; no rule depends on it (R51, D21). -/
  regMap : TransceiverReg → RegAddr
deriving Inhabited

/-- The configuration of the machine at hand. Nothing is known of it but what its type says: a claim about the machine
holds for every configuration of R6. DESIGN CHOICE, safe (log 1). -/
opaque Config.platform : Config

/-! ## Free values -/

/-- The environment's answer to a sample of a flag, given what it has seen on the bus and how many samples were
made before: unconstrained (R29, D14). A free value, DESIGN CHOICE of form, safe (log 2). -/
opaque Config.freeFlag : Flag → List BusEvent → Nat → Bool

/-- The byte the environment presents to a read of the received byte, given what it has seen on the bus and how many
bytes were read before: unconstrained (R30, D14). A free value, DESIGN CHOICE of form, safe (log 2). -/
opaque Config.freeByte : List BusEvent → Nat → Byte

/-- The level of the clock while a byte is shifting, given the events and the number of samples made: the peripheral gives
pulses then (R112), and the model has no time to say which. A free value, DESIGN CHOICE of form, safe (log 27). -/
opaque Config.freeSck : List BusEvent → Nat → Level

end Sys2Proof
end

