-- ==== Sys2Proof/Syntax.lean ====
section
/-! DEFINITION. The syntax: the five operations, the raw fields of a request word, and the lines of the
assembler. -/

namespace Sys2Proof

/-- The operations, one constructor per row of the opcode table (R71, R82). -/
inductive Instr where
  /-- TRANSFER.R: exchange the byte `d` and release chip-select (R113). -/
  | transferR (d : Byte)
  /-- TRANSFER.H: exchange the byte `d` and hold chip-select (R114). -/
  | transferH (d : Byte)
  /-- RDREG: read transceiver register `a` (R121). -/
  | rdreg (a : RegAddr)
  /-- WRREG: write `d` to transceiver register `a` (R122). -/
  | wrreg (a : RegAddr) (d : Byte)
  /-- RDDIAG: read the recorded timeout cause (R140). -/
  | rddiag
deriving DecidableEq, Repr

/-- The operation field `op` of a request word (R71). -/
inductive OpField where
  /-- `00` -/
  | transfer
  /-- `01` -/
  | rdreg
  /-- `10` -/
  | wrreg
  /-- `11` -/
  | rddiag
deriving DecidableEq, Repr

/-- The four fields of a request word, before anything is checked (R70). -/
structure ReqFields where
  /-- Bits 17:16 (R71). -/
  op : OpField
  /-- Bit 15, the hold flag (R72). -/
  h : Bool
  /-- Bits 14:8, the address (R73). -/
  a : RegAddr
  /-- Bits 7:0, the data byte (R74). -/
  d : Byte
deriving DecidableEq, Repr

/-- Why a word is reserved: the field that its operation does not use and that is not zero (R75). Where several
are not zero the first of this list is named. -/
inductive ReservedField where
  /-- TRANSFER with an address. -/
  | transferAddr
  /-- RDREG with the hold flag. -/
  | rdregHold
  /-- RDREG with data. -/
  | rdregData
  /-- WRREG with the hold flag. -/
  | wrregHold
  /-- RDDIAG with the hold flag. -/
  | rddiagHold
  /-- RDDIAG with an address. -/
  | rddiagAddr
  /-- RDDIAG with data. -/
  | rddiagData
deriving DecidableEq, Repr

/-- One line of the assembler, operands as the numbers written, whether they fit or not (R80). The first five
forms are the mnemonics, the rest are the pseudo-instructions. -/
inductive AsmLine where
  | transferR (d : Nat)
  | transferH (d : Nat)
  | rdreg (a : Nat)
  | wrreg (a d : Nat)
  | rddiag
  /-- `TRANSFER d, hold` -/
  | transfer (d : Nat) (hold : Bool)
  /-- `FRAME d0, d1, ..., dn`: a first byte and the others. -/
  | frame (d0 : Nat) (rest : List Nat)
  /-- `READREG a`, another name of `RDREG a`. -/
  | readreg (a : Nat)
  /-- `WRITEREG a, d`, another name of `WRREG a, d`. -/
  | writereg (a d : Nat)
deriving DecidableEq, Repr

end Sys2Proof
end

