-- ==== Sys2Proof/WellFormed.lean ====
section
/-! DEFINITION. Well-formedness: which field values spell an operation, and which assembler lines are accepted. -/

namespace Sys2Proof

/-- A request's fields spell an operation when every field its operation does not use is zero (R72 to R75). -/
def ReqFields.wellFormed (f : ReqFields) : Bool :=
  match f.op with
  | .transfer => f.a == 0
  | .rdreg => !f.h && f.d == 0
  | .wrreg => !f.h
  | .rddiag => !f.h && f.a == 0 && f.d == 0

/-- An address operand fits in 7 bits (R80). -/
def AsmLine.addrFits (a : Nat) : Bool := decide (a < 128)

/-- A data operand fits in 8 bits (R80). -/
def AsmLine.byteFits (d : Nat) : Bool := decide (d < 256)

/-- The assembler accepts a line when each operand fits its field, "or the assembler refuses the line" (R80). -/
def AsmLine.wellFormed : AsmLine → Bool
  | .transferR d => byteFits d
  | .transferH d => byteFits d
  | .rdreg a => addrFits a
  | .wrreg a d => addrFits a && byteFits d
  | .rddiag => true
  | .transfer d _ => byteFits d
  | .frame d0 rest => byteFits d0 && rest.all byteFits
  | .readreg a => addrFits a
  | .writereg a d => addrFits a && byteFits d

end Sys2Proof
end

