-- ==== Sys2Proof/Decode.lean ====
section
/-! DEFINITION. The decoder, total on all 2^18 words and refusing a reserved word by the field that makes it
reserved (R75, R82); the encoder (R80); and the match/mask table of R82 as rows. -/

namespace Sys2Proof

/-! ## Fields of a request word (R70) -/

/-- The operation field, bits 17:16 (R71). -/
def ReqWord.op (w : ReqWord) : OpField :=
  match w.getLsbD 17, w.getLsbD 16 with
  | false, false => .transfer
  | false, true => .rdreg
  | true, false => .wrreg
  | true, true => .rddiag

/-- The hold field, bit 15 (R72). -/
def ReqWord.h (w : ReqWord) : Bool := w.getLsbD 15

/-- The address field, bits 14:8 (R73). -/
def ReqWord.a (w : ReqWord) : RegAddr := w.extractLsb' 8 7

/-- The data field, bits 7:0 (R74). -/
def ReqWord.d (w : ReqWord) : Byte := w.extractLsb' 0 8

/-- The four fields of a word. -/
def ReqWord.fields (w : ReqWord) : ReqFields :=
  { op := ReqWord.op w, h := ReqWord.h w, a := ReqWord.a w, d := ReqWord.d w }

/-! ## Decoding -/

/-- Decodes fields: `op` first, then the fields the operation does not use must be zero (R82, R75). -/
def ReqFields.decode (f : ReqFields) : Except ReservedField Instr :=
  match f.op with
  | .transfer =>
    if f.a ≠ 0 then .error .transferAddr
    else if f.h then .ok (.transferH f.d) else .ok (.transferR f.d)
  | .rdreg =>
    if f.h then .error .rdregHold
    else if f.d ≠ 0 then .error .rdregData
    else .ok (.rdreg f.a)
  | .wrreg =>
    if f.h then .error .wrregHold else .ok (.wrreg f.a f.d)
  | .rddiag =>
    if f.h then .error .rddiagHold
    else if f.a ≠ 0 then .error .rddiagAddr
    else if f.d ≠ 0 then .error .rddiagData
    else .ok .rddiag

/-- Decodes a request word (R82). -/
def decode (w : ReqWord) : Except ReservedField Instr := (ReqWord.fields w).decode

/-! ## Encoding -/

/-- The code of an operation field (R71). -/
def OpField.code : OpField → BitVec 2
  | .transfer => 0b00#2
  | .rdreg => 0b01#2
  | .wrreg => 0b10#2
  | .rddiag => 0b11#2

/-- Lays four fields out in a request word, `op ++ h ++ a ++ d` (R70, R8). -/
def ReqFields.pack (f : ReqFields) : ReqWord :=
  f.op.code ++ BitVec.ofBool f.h ++ f.a ++ f.d

/-- The fields of an operation, unused ones zero (R80). -/
def Instr.fields : Instr → ReqFields
  | .transferR d => { op := .transfer, h := false, a := 0, d := d }
  | .transferH d => { op := .transfer, h := true, a := 0, d := d }
  | .rdreg a => { op := .rdreg, h := false, a := a, d := 0 }
  | .wrreg a d => { op := .wrreg, h := false, a := a, d := d }
  | .rddiag => { op := .rddiag, h := false, a := 0, d := 0 }

/-- The request word of an operation (R80). -/
def encode (i : Instr) : ReqWord := i.fields.pack

/-- An operation is well formed when its fields are. Its operands have their exact widths by type ("an out-of-range
address cannot be spelled", R73), so every operation is. -/
def Instr.wellFormed (i : Instr) : Bool := i.fields.wellFormed

/-! ## The match/mask table (R82) -/

/-- A row of the table of R82. -/
structure TableRow where
  mnemonic : String
  pattern : ReqWord
  mask : ReqWord
deriving DecidableEq, Repr

/-- "A word `w` is mnemonic `m` when `(w & mask_m) = match_m`" (R82). -/
def TableRow.matchesWord (r : TableRow) (w : ReqWord) : Bool := w &&& r.mask == r.pattern

/-- The five rows (R82). -/
def table : List TableRow :=
  [ { mnemonic := "TRANSFER.R", pattern := 0x00000, mask := 0x3FF00 },
    { mnemonic := "TRANSFER.H", pattern := 0x08000, mask := 0x3FF00 },
    { mnemonic := "RDREG", pattern := 0x10000, mask := 0x380FF },
    { mnemonic := "WRREG", pattern := 0x20000, mask := 0x38000 },
    { mnemonic := "RDDIAG", pattern := 0x30000, mask := 0x3FFFF } ]

/-- The table's name of an operation. -/
def Instr.mnemonic : Instr → String
  | .transferR _ => "TRANSFER.R"
  | .transferH _ => "TRANSFER.H"
  | .rdreg _ => "RDREG"
  | .wrreg _ _ => "WRREG"
  | .rddiag => "RDDIAG"

/-! ## The host's view of a word -/

/-- The request word whose bits are `w`, numbered as the opcode table numbers them; none where `w` does not fit in 18
bits, since every request is 18 bits (R81). `nbits` is the row's size in whole bytes. DESIGN CHOICE (log 24). -/
def tableWord (nbits w : Nat) : Option ReqWord :=
  if w % 2 ^ nbits < 2 ^ 18 then some (BitVec.ofNat 18 (w % 2 ^ nbits)) else none

/-- The operation the decoder reads from the word whose bits are `w`. -/
def decodeTableWord (nbits w : Nat) : Option Instr :=
  match tableWord nbits w with
  | none => none
  | some v => (decode v).toOption

end Sys2Proof
end

