-- ==== Sys2Proof/Machine/State.lean ====
section
/-! DEFINITION. The state of the block (R20), its ports, the environment's answers, the reset state (R181), and why a
step can stop. -/

namespace Sys2Proof.Machine

/-- A cause of TransportTimeout (R25, R151). -/
inductive Cause where
  /-- The transmit-ready wait ran out. -/
  | txPathFull
  /-- The transfer-complete wait ran out. -/
  | transferIncomplete
deriving DecidableEq, Repr

/-- An operation that uses the bus, so one that the sequencer can be inside of. RDDIAG is none: it "never enters
`WaitTx` or `WaitDone`" (R140). -/
inductive BusOp where
  | transferR (d : Byte)
  | transferH (d : Byte)
  | rdreg (a : RegAddr)
  | wrreg (a : RegAddr) (d : Byte)
deriving DecidableEq, Repr

/-- The sequencer phase (R23): `op` is the accepted request, `k` the index of the current sub-transfer, `n` the samples
of the awaited flag that have already returned false in the current wait (R24). -/
inductive Phase where
  | idle
  | waitTx (op : BusOp) (k : Fin 2) (n : Nat)
  | waitDone (op : BusOp) (k : Fin 2) (n : Nat)
deriving DecidableEq, Repr

/-- The response of an operation (R26, R76). -/
inductive Response where
  /-- The byte of TRANSFER, RDREG or RDDIAG. -/
  | byte (v : Byte)
  /-- WRREG ends with no value. -/
  | noValue
deriving DecidableEq, Repr

/-- The environment's side: the answers it has ready, first answer first, and how many were drawn. Where a list has run
out, the answer is the free value of Config at the counter. The MODEL's own field (R29, R30; log 2). -/
structure Env where
  /-- Answers on `per_tx_ready`. -/
  txReady : List Bool
  /-- Answers on `per_xfer_complete`. -/
  xferComplete : List Bool
  /-- Bytes on `per_rxdata`. -/
  rxData : List Byte
  /-- Flag samples made. -/
  samples : Nat
  /-- Received bytes read. -/
  reads : Nat
deriving DecidableEq, Repr

/-- The state: the record of R20, the request and response ports of R34, and the model's own observation and
environment. -/
structure State where
  /-- The chip-select line (R21). -/
  cs : ChipSelect
  /-- The sequencer phase (R23). -/
  phase : Phase
  /-- The recorded timeout cause, none after reset (R25). -/
  diag : Option Cause
  /-- The bus has been initialised (R27). -/
  configured : Bool
  /-- The bus events, oldest first (R35). -/
  hist : List BusEvent
  /-- The request port: the head is `req_word`, and `req_valid` says there is one; after it, what the requester offers
  next (R34, R162; log 3). -/
  requests : List ReqWord
  /-- The response port: what the last step delivered, none unless that step ended an operation (R26, R34; log 6). -/
  resp : Option Response
  /-- The responses delivered, oldest first: the observation's other half (R35, D2; log 6). -/
  reports : List Response
  /-- The environment (log 2). -/
  env : Env
deriving DecidableEq, Repr

/-- How the machine stops with a fault: it does not. "no operation raises a fatal fault" (R152), there is no trap
(R156), and a timeout is an ordinary end of a transfer (R108). -/
inductive Fault where
deriving DecidableEq, Repr

/-- Why the model gives a request, or a look at a port, no meaning (R153). Each is safe: a claim about a run that is
refused is not provable. -/
inductive Refusal where
  /-- Raised by an arm of `exec` whose instruction has no meaning yet. Safe. -/
  | notModelled (mnemonic : String)
  /-- Raised by accepting TRANSFER.R, TRANSFER.H, RDREG or WRREG while the bus is not configured (R101, R153). Safe. -/
  | notConfigured
  /-- Raised by a step that is offered a word no row of the table matches (R75, R153). Safe. -/
  | reserved (w : ReqWord) (why : ReservedField)
  /-- Raised by the meaning of an instruction that is not the one in progress (R153: a request is not accepted until
  Idle). No step raises it: a step leaves the offered request where it is. Safe. -/
  | busy
  /-- Raised by reading the response data of WRREG, or of no response at all (R76, U16). No step raises it. Safe. -/
  | noResponseData
  /-- Raised by looking at the chip-select pin or the clock before the platform has configured the bus (R181). No step
  raises it. Safe. -/
  | lineUnspecified
deriving DecidableEq, Repr

/-- The environment right after reset: no answer is fixed (R181: "unspecified; environment draws"). DESIGN CHOICE of
form (log 2). -/
def Env.reset : Env :=
  { txReady := [], xferComplete := [], rxData := [], samples := 0, reads := 0 }

/-- The state right after reset (R181). The ports and the model's own fields are empty: DESIGN CHOICE (log 2, 3, 6). -/
def State.reset : State :=
  { cs := .released
    phase := .idle
    diag := none
    configured := false
    hist := []
    requests := []
    resp := none
    reports := []
    env := Env.reset }

end Sys2Proof.Machine
end

