-- ==== Sys2Proof/Machine/Flags.lean ====
section
/-! DEFINITION. The peripheral's status flags and received byte, as answers of the environment (R29, R30), and the one
flag of the block's own, the recorded cause: its codes (R141) and what writes it (R25). -/

namespace Sys2Proof.Machine

/-! ## The environment's answers -/

/-- The answers the environment has ready for a flag. -/
def Env.answers (e : Env) : Flag → List Bool
  | .txReady => e.txReady
  | .xferComplete => e.xferComplete

/-- The environment after one sample of a flag: that flag's first ready answer is used up. -/
def Env.afterSample (e : Env) : Flag → Env
  | .txReady => { e with txReady := e.txReady.tail, samples := e.samples + 1 }
  | .xferComplete => { e with xferComplete := e.xferComplete.tail, samples := e.samples + 1 }

/-- The environment after one read of the received byte. -/
def Env.afterRead (e : Env) : Env :=
  { e with rxData := e.rxData.tail, reads := e.reads + 1 }

/-- The answer that sample number `j` (from 0) of a flag will get, counting from this state and sampling no other flag:
the ready answer, or the free value where none is ready (R29). -/
def State.upcoming (s : State) (f : Flag) (j : Nat) : Bool :=
  (s.env.answers f)[j]?.getD (Config.freeFlag f s.hist (s.env.samples + j))

/-- The byte that the next read of the received byte will get (R30). -/
def State.upcomingByte (s : State) : Byte :=
  s.env.rxData.head?.getD (Config.freeByte s.hist s.env.reads)

/-! ## The recorded cause -/

/-- The 2-bit code of the recorded cause (R141, D30). -/
def diagCode : Option Cause → BitVec 2
  | none => 0b00#2
  | some .txPathFull => 0b01#2
  | some .transferIncomplete => 0b10#2

/-- The recorded cause after a transfer that did not time out: unchanged under Keep, none under Clear (R25, R107). In the
data phase of a register access too, where a sentence that R124 derives from this rule reads otherwise (log 11). -/
def diagAfterSuccess (c : Config) (d : Option Cause) : Option Cause :=
  match c.diagOnSuccess with
  | .keep => d
  | .clear => none

/-- The recorded cause after a timeout, whatever it was before (R108, R155). -/
def diagAfterTimeout (cause : Cause) : Option Cause := some cause

end Sys2Proof.Machine
end

