-- ==== Sys2Proof/Machine/Operands.lean ====
section
/-! DEFINITION. The operands: the command byte (R77) and the two sub-transfers of an operation (R79, R113, R114, R121,
R122). -/

namespace Sys2Proof.Machine

/-- The read/write discriminator of a command byte (R77). -/
inductive Rw where
  | read
  | write
deriving DecidableEq, Repr

/-- The command byte: the address where the layout places it, and the read bit set for a read (R77). -/
def cmd (l : CmdLayout) (a : RegAddr) (rw : Rw) : Byte :=
  l.place a ||| (match rw with
    | .read => 1#8 <<< l.rpos.val
    | .write => 0#8)

/-- What one sub-transfer exchanges: the byte sent, and whether it holds chip-select. -/
structure SubTransfer where
  tx : Byte
  hold : Bool
deriving DecidableEq, Repr

/-- The data phase of a register access: one byte with hold clear (R120). -/
def accessDataPhase (v : Byte) : SubTransfer := { tx := v, hold := false }

/-- `sub(op, k)` (R116). TRANSFER has the one sub-transfer (R113, R114); a register access has the command byte with
hold set, then the data byte with hold clear (R120, R121, R122). -/
def sub (c : Config) (op : BusOp) (k : Fin 2) : SubTransfer :=
  match op with
  | .transferR d => { tx := d, hold := false }
  | .transferH d => { tx := d, hold := true }
  | .rdreg a =>
    if k = 0 then { tx := cmd c.layout a .read, hold := true } else accessDataPhase c.dummyByte
  | .wrreg a d =>
    if k = 0 then { tx := cmd c.layout a .write, hold := true } else accessDataPhase d

/-- The operation goes on to a second sub-transfer: RDREG and WRREG after their first (R116, `Next`). -/
def hasNext (op : BusOp) (k : Fin 2) : Bool :=
  match op with
  | .transferR _ => false
  | .transferH _ => false
  | .rdreg _ => k == 0
  | .wrreg _ _ => k == 0

/-- The response of an operation whose last sub-transfer returned `r` (R76). -/
def responseOf (op : BusOp) (r : Byte) : Response :=
  match op with
  | .transferR _ => .byte r
  | .transferH _ => .byte r
  | .rdreg _ => .byte r
  | .wrreg _ _ => .noValue

/-- The instruction an operation in progress is. -/
def BusOp.instr : BusOp → Instr
  | .transferR d => .transferR d
  | .transferH d => .transferH d
  | .rdreg a => .rdreg a
  | .wrreg a d => .wrreg a d

end Sys2Proof.Machine
end

