-- ==== Sys2Proof/Machine/Ops.lean ====
section
/-! DEFINITION. The primitives of R9, the two ends of a transfer (R107, and the timeout exit R108, this block's one
exception), and the sequencer's actions (R116), each written once for all operations. -/

namespace Sys2Proof.Machine

/-! ## Primitives (R9) -/

/-- Records a bus event (R35). -/
def record (e : BusEvent) (s : State) : State := { s with hist := s.hist ++ [e] }

/-- `CsAssert()`: if chip-select was Released, it is Asserted and `FrameStart` is recorded; else nothing (R102). -/
def csAssert (s : State) : State :=
  match s.cs with
  | .released => record .frameStart { s with cs := .asserted }
  | .asserted => s

/-- `CsRelease()`: if chip-select was Asserted, it is Released and `FrameEnd` is recorded; else nothing (R9). -/
def csRelease (s : State) : State :=
  match s.cs with
  | .asserted => record .frameEnd { s with cs := .released }
  | .released => s

/-- `Sample(flag)`: one answer of the environment, and the state after drawing it (R29). -/
def sample (f : Flag) (s : State) : Bool × State :=
  (s.upcoming f 0, { s with env := s.env.afterSample f })

/-- `WriteTxData(v)`: the byte goes into the transmit path and `ByteOut(v)` is recorded (R104). -/
def writeTxData (v : Byte) (s : State) : State := record (.byteOut v) s

/-- `ReadRxData()`: one byte of the environment, recorded as `ByteIn` (R106). -/
def readRxData (s : State) : Byte × State :=
  (s.upcomingByte, record (.byteIn s.upcomingByte) { s with env := s.env.afterRead })

/-- `CsRelease()` unless the transfer holds (R107). -/
def releaseUnlessHeld (hold : Bool) (s : State) : State :=
  if hold then s else csRelease s

/-- Moves the sequencer. -/
def setPhase (p : Phase) (s : State) : State := { s with phase := p }

/-- `respond`: delivers the response and returns the sequencer to Idle (R26, R9). -/
def respond (r : Response) (s : State) : State :=
  { s with phase := .idle, resp := some r, reports := s.reports ++ [r] }

/-! ## The two ends of a transfer -/

/-- Chip-select after a timeout, as `CS_ON_TIMEOUT` says (R108). -/
def csOnTimeout (c : Config) (hold : Bool) (s : State) : State :=
  match c.csOnTimeout with
  | .followHold => releaseUnlessHeld hold s
  | .release => csRelease s
  | .keep => s

/-- The timeout exit, without its `return`: the cause is recorded, then chip-select is treated (R108). Nothing else is
saved and control goes to no handler (R156). -/
def timeoutExit (c : Config) (cause : Cause) (hold : Bool) (s : State) : State :=
  csOnTimeout c hold { s with diag := diagAfterTimeout cause }

/-- The normal end of a sub-transfer, after the received byte was read: release unless held, then the recorded cause
(R107). -/
def successExit (c : Config) (x : SubTransfer) (s : State) : State :=
  let t := releaseUnlessHeld x.hold s
  { t with diag := diagAfterSuccess c t.diag }

/-! ## The sequencer's actions (R116) -/

/-- `Accept`, for a configured bus: chip-select is asserted and the first wait starts. -/
def accept (op : BusOp) (s : State) : State := setPhase (.waitTx op 0 0) (csAssert s)

/-- `Next(op, k, r)`: the second sub-transfer of a register access, or the response. -/
def nextPart (op : BusOp) (k : Fin 2) (r : Byte) (s : State) : State :=
  if hasNext op k then setPhase (.waitTx op 1 0) (csAssert s) else respond (responseOf op r) s

/-- `SampleTx` (R103, R104): one sample of `TX_READY`; on true the byte is pushed, on the last allowed false the wait
times out. -/
def sampleTx (c : Config) (op : BusOp) (k : Fin 2) (n : Nat) (s : State) : State :=
  let p := sample .txReady s
  if p.1 then setPhase (.waitDone op k 0) (writeTxData (sub c op k).tx p.2)
  else if n + 1 = c.spinMax then
    nextPart op k Config.sentinel (timeoutExit c .txPathFull (sub c op k).hold p.2)
  else setPhase (.waitTx op k (n + 1)) p.2

/-- `SampleDone` (R105, R106, R107): one sample of `XFER_COMPLETE`; on true the received byte is read and the transfer
ends, on the last allowed false the wait times out. -/
def sampleDone (c : Config) (op : BusOp) (k : Fin 2) (n : Nat) (s : State) : State :=
  let p := sample .xferComplete s
  if p.1 then
    let q := readRxData p.2
    nextPart op k q.1 (successExit c (sub c op k) q.2)
  else if n + 1 = c.spinMax then
    nextPart op k Config.sentinel (timeoutExit c .transferIncomplete (sub c op k).hold p.2)
  else setPhase (.waitDone op k (n + 1)) p.2

/-- One sequencer action of a bus operation: accepting it in Idle, where the bus must be configured (R101), or the next
sample while it is the operation in progress. While another one is in progress it is not accepted (R153, `Busy`;
log 13). -/
def busOp (c : Config) (op : BusOp) (s : State) : Host.Outcome State Fault Refusal :=
  match s.phase with
  | .idle => if s.configured then .next (accept op s) else .refused .notConfigured
  | .waitTx op' k n => if op' = op then .next (sampleTx c op k n s) else .refused .busy
  | .waitDone op' k n => if op' = op then .next (sampleDone c op k n s) else .refused .busy

end Sys2Proof.Machine
end

