-- ==== Sys2Proof/Machine/Diagnostic.lean ====
section
/-! DEFINITION. RDDIAG (R140): one step from Idle to Idle. -/

namespace Sys2Proof.Machine

/-- The response of RDDIAG, `zext_8(code(s.diag))` (R140). -/
def diagResponse (s : State) : Response := .byte ((diagCode s.diag).setWidth 8)

/-- RDDIAG: responds with the code of the recorded cause, whether or not the bus is configured, and changes nothing else
(R140). While an operation is in progress it is not accepted (R153, `Busy`). -/
def rddiag (s : State) : Host.Outcome State Fault Refusal :=
  match s.phase with
  | .idle => .next (respond (diagResponse s) s)
  | .waitTx _ _ _ => .refused .busy
  | .waitDone _ _ _ => .refused .busy

/-- The meaning of RDDIAG on this machine: it depends on no parameter. -/
def execRddiag (s : State) : Host.Outcome State Fault Refusal := rddiag s

end Sys2Proof.Machine
end

