-- ==== Sys2Proof/Machine/RegisterAccess.lean ====
section
/-! DEFINITION. RDREG and WRREG (R121, R122), for any configuration and for the machine's own. -/

namespace Sys2Proof.Machine

/-- RDREG: the command byte with the read bit set and hold, then the dummy byte without; the response is what the second
transfer returns (R121). -/
def rdreg (c : Config) (a : RegAddr) (s : State) : Host.Outcome State Fault Refusal :=
  busOp c (.rdreg a) s

/-- WRREG: the command byte with the read bit clear and hold, then the value without; no response value (R122). -/
def wrreg (c : Config) (a : RegAddr) (d : Byte) (s : State) : Host.Outcome State Fault Refusal :=
  busOp c (.wrreg a d) s

/-- The meaning of RDREG on this machine. -/
def execRdreg (a : RegAddr) (s : State) : Host.Outcome State Fault Refusal :=
  rdreg Config.platform a s

/-- The meaning of WRREG on this machine. -/
def execWrreg (a : RegAddr) (d : Byte) (s : State) : Host.Outcome State Fault Refusal :=
  wrreg Config.platform a d s

end Sys2Proof.Machine
end

