-- ==== Sys2Proof/Machine/Transfer.lean ====
section
/-! DEFINITION. TRANSFER.R and TRANSFER.H (R113, R114), for any configuration and for the machine's own. -/

namespace Sys2Proof.Machine

/-- TRANSFER.R: exchange one byte and release chip-select, `resp <- Transfer(d, false)` (R113). -/
def transferR (c : Config) (d : Byte) (s : State) : Host.Outcome State Fault Refusal :=
  busOp c (.transferR d) s

/-- TRANSFER.H: exchange one byte and hold chip-select, `resp <- Transfer(d, true)` (R114). -/
def transferH (c : Config) (d : Byte) (s : State) : Host.Outcome State Fault Refusal :=
  busOp c (.transferH d) s

/-- The meaning of TRANSFER.R on this machine. -/
def execTransferR (d : Byte) (s : State) : Host.Outcome State Fault Refusal :=
  transferR Config.platform d s

/-- The meaning of TRANSFER.H on this machine. -/
def execTransferH (d : Byte) (s : State) : Host.Outcome State Fault Refusal :=
  transferH Config.platform d s

end Sys2Proof.Machine
end

