-- ==== Sys2Proof/Machine/Dispatch.lean ====
section
/-! DEFINITION. One arm per instruction, each a call of its meaning. -/

namespace Sys2Proof.Machine

/-- One sequencer action of an instruction (R116; RDDIAG: R140). -/
def exec (i : Instr) (s : State) : Host.Outcome State Fault Refusal :=
  match i with
  | .transferR d => Sys2Proof.Machine.execTransferR d s
  | .transferH d => Sys2Proof.Machine.execTransferH d s
  | .rdreg a => Sys2Proof.Machine.execRdreg a s
  | .wrreg a d => Sys2Proof.Machine.execWrreg a d s
  | .rddiag => Sys2Proof.Machine.execRddiag s

end Sys2Proof.Machine
end

