-- ==== Sys2Proof/Machine/Fetch.lean ====
section
/-! DEFINITION. Whose turn it is at a step: taking the offered request in Idle (R23, R59, R155), or going on with the
operation in progress; and placing a request on the port from outside. -/

namespace Sys2Proof.Machine

/-- The response of the step before is no longer on its port: it is "not kept as state afterwards" (R26; log 6). -/
def beginStep (s : State) : State := { s with resp := none }

/-- What a step has to do. -/
inductive Turn where
  /-- Idle and nothing offered: the block waits (R182; log 5). -/
  | wait (s : State)
  /-- Run this instruction's next action, in this state. -/
  | run (i : Instr) (s : State)
  /-- The offered word is reserved (R75). -/
  | reject (w : ReqWord) (why : ReservedField)
deriving DecidableEq, Repr

/-- In Idle the offered word is decoded, and taken off the port when it spells an operation; `Reserved` is found before
`NotConfigured` (R155). Outside Idle the offered word stays where it is (R153, `Busy`) and the operation in progress
goes on: it cannot be aborted (R158). -/
def turn (s : State) : Turn :=
  match s.phase with
  | .idle =>
    match s.requests with
    | [] => .wait (beginStep s)
    | w :: rest =>
      match decode w with
      | .ok i => .run i { beginStep s with requests := rest }
      | .error why => .reject w why
  | .waitTx op _ _ => .run op.instr (beginStep s)
  | .waitDone op _ _ => .run op.instr (beginStep s)

/-- The requester offers a word before all it has left to offer. -/
def offer (w : ReqWord) (s : State) : State := { s with requests := w :: s.requests }

/-- Puts a word where the next step takes it: the platform has configured the bus (R183), the block is Idle, and the
word is offered. A word that does not fit in 18 bits is cut to the port's width; the decoder's own answer for it is
none. DESIGN CHOICE (log 8). -/
def placeRequest (nbits w : Nat) (s : State) : State :=
  offer ((tableWord nbits w).getD (BitVec.ofNat 18 w)) { s with phase := .idle, configured := true }

end Sys2Proof.Machine
end

