-- ==== Sys2Proof/Machine/Step.lean ====
section
/-! DEFINITION. One step, one sequencer action (R36), and the host's placing of a word. -/

namespace Sys2Proof.Machine

/-- One step of the block. -/
def step (s : State) : Host.Outcome State Fault Refusal :=
  match turn s with
  | .wait t => .next t
  | .run i t => exec i t
  | .reject w why => .refused (.reserved w why)

/-- The state with a word placed so that the next step runs it (log 8). -/
def State.withFetchWord (s : State) (nbits w : Nat) : State := placeRequest nbits w s

end Sys2Proof.Machine
end

