-- ==== Sys2Proof/Machine/Assembler.lean ====
section
/-! DEFINITION. The assembler of R80: a line as text, the line's request words, the pseudo-instructions' expansions, and
the line an operation is written as. -/

namespace Sys2Proof

/-! ## From a line to request words -/

/-- The frame of R80: hold on every byte but the last. -/
def frameInstrs : Nat → List Nat → List Instr
  | d, [] => [.transferR (BitVec.ofNat 8 d)]
  | d, e :: rest => .transferH (BitVec.ofNat 8 d) :: frameInstrs e rest

/-- The operations a line stands for, operands taken to fit (R80). -/
def AsmLine.expand : AsmLine → List Instr
  | .transferR d => [.transferR (BitVec.ofNat 8 d)]
  | .transferH d => [.transferH (BitVec.ofNat 8 d)]
  | .rdreg a => [.rdreg (BitVec.ofNat 7 a)]
  | .wrreg a d => [.wrreg (BitVec.ofNat 7 a) (BitVec.ofNat 8 d)]
  | .rddiag => [.rddiag]
  | .transfer d hold => if hold then [.transferH (BitVec.ofNat 8 d)] else [.transferR (BitVec.ofNat 8 d)]
  | .frame d0 rest => frameInstrs d0 rest
  | .readreg a => [.rdreg (BitVec.ofNat 7 a)]
  | .writereg a d => [.wrreg (BitVec.ofNat 7 a) (BitVec.ofNat 8 d)]

/-- The request words of a line; none where "the assembler refuses the line" (R80). -/
def AsmLine.assemble (l : AsmLine) : Option (List ReqWord) :=
  if l.wellFormed then some (l.expand.map encode) else none

/-- How an operation is written (R80). -/
def Instr.asm : Instr → AsmLine
  | .transferR d => .transferR d.toNat
  | .transferH d => .transferH d.toNat
  | .rdreg a => .rdreg a.toNat
  | .wrreg a d => .wrreg a.toNat d.toNat
  | .rddiag => .rddiag

/-! ## From text to a line (log 17) -/

namespace AsmText

/-- The value of a decimal digit. -/
def decDigit (ch : Char) : Option Nat :=
  if '0' ≤ ch ∧ ch ≤ '9' then some (ch.toNat - '0'.toNat) else none

/-- The value of a hexadecimal digit. -/
def hexDigit (ch : Char) : Option Nat :=
  if 'a' ≤ ch ∧ ch ≤ 'f' then some (ch.toNat - 'a'.toNat + 10)
  else if 'A' ≤ ch ∧ ch ≤ 'F' then some (ch.toNat - 'A'.toNat + 10)
  else decDigit ch

/-- Reads digits in a base, most significant first. -/
def digits (base : Nat) (digit : Char → Option Nat) : Nat → List Char → Option Nat
  | acc, [] => some acc
  | acc, ch :: rest =>
    match digit ch with
    | some v => digits base digit (acc * base + v) rest
    | none => none

/-- An operand: "written in hexadecimal `0xNN` or decimal" (R80). -/
def numeral : List Char → Option Nat
  | [] => none
  | ['0', 'x'] => none
  | '0' :: 'x' :: rest => digits 16 hexDigit 0 rest
  | ch :: rest => digits 10 decDigit 0 (ch :: rest)

/-- The hold operand of `TRANSFER` (R80). -/
def holdFlag (w : List Char) : Option Bool :=
  if w = "1".toList ∨ w = "true".toList then some true
  else if w = "0".toList ∨ w = "false".toList then some false
  else none

/-- A character that separates words. -/
def separates (ch : Char) : Bool := ch == ' ' || ch == ','

/-- Splits a line at its separators, dropping empty words; the first argument is the word being read. -/
def wordsFrom : List Char → List Char → List (List Char)
  | [], [] => []
  | ch :: acc, [] => [ch :: acc]
  | [], ch :: rest => if separates ch then wordsFrom [] rest else wordsFrom [ch] rest
  | c0 :: acc, ch :: rest =>
    if separates ch then (c0 :: acc) :: wordsFrom [] rest else wordsFrom (c0 :: acc ++ [ch]) rest

/-- All operands as numbers, none where one is not a number. -/
def numerals : List (List Char) → Option (List Nat)
  | [] => some []
  | w :: rest =>
    match numeral w, numerals rest with
    | some n, some ns => some (n :: ns)
    | some _, none => none
    | none, _ => none

/-- A line whose operands are all numbers. -/
def numericLine (name : List Char) (operands : List Nat) : Option AsmLine :=
  if name = "TRANSFER.R".toList then
    match operands with
    | [d] => some (.transferR d)
    | _ => none
  else if name = "TRANSFER.H".toList then
    match operands with
    | [d] => some (.transferH d)
    | _ => none
  else if name = "RDREG".toList then
    match operands with
    | [a] => some (.rdreg a)
    | _ => none
  else if name = "WRREG".toList then
    match operands with
    | [a, d] => some (.wrreg a d)
    | _ => none
  else if name = "RDDIAG".toList then
    match operands with
    | [] => some .rddiag
    | _ => none
  else if name = "READREG".toList then
    match operands with
    | [a] => some (.readreg a)
    | _ => none
  else if name = "WRITEREG".toList then
    match operands with
    | [a, d] => some (.writereg a d)
    | _ => none
  else if name = "FRAME".toList then
    match operands with
    | d0 :: rest => some (.frame d0 rest)
    | [] => none
  else none

/-- Reads the words of a line: `TRANSFER` takes a hold operand, every other form takes numbers (R80). -/
def lineOfWords : List (List Char) → Option AsmLine
  | [] => none
  | name :: operands =>
    if name = "TRANSFER".toList then
      match operands with
      | [d, hold] =>
        match numeral d, holdFlag hold with
        | some n, some b => some (.transfer n b)
        | some _, none => none
        | none, _ => none
      | _ => none
    else
      match numerals operands with
      | some ns => numericLine name ns
      | none => none

end AsmText

/-- Reads one line of text (R80). -/
def AsmLine.parse (text : String) : Option AsmLine := AsmText.lineOfWords (AsmText.wordsFrom [] text.toList)

/-- The request words of one line of text; none where it is refused. -/
def assembleText (text : String) : Option (List ReqWord) :=
  match AsmLine.parse text with
  | some l => l.assemble
  | none => none

end Sys2Proof
end

