-- ==== Sys2Proof/Machine/Platform.lean ====
section
/-! DEFINITION. What the platform does to the block from outside; no step does any of it (R27, R158; log 9). -/

namespace Sys2Proof.Machine

/-- The platform has physically configured the bus (R183, step 1; R27). -/
def configureBus (s : State) : State := { s with configured := true }

/-- A power cycle, or a reset by the supervisor outside: the reset state from any state. The environment's answers are
not the block's to reset (R180, R181). -/
def powerCycle (s : State) : State := { State.reset with env := s.env }

/-- The boot order as far as this block goes: power, the configured bus, then requests (R183). -/
def boot (program : List ReqWord) (s : State) : State :=
  { configureBus (powerCycle s) with requests := program }

end Sys2Proof.Machine
end

