-- ==== Sys2Proof/Machine/Ports.lean ====
section
/-! DEFINITION. The ports of R34 that are outputs of the state. The inputs `req_valid` and `req_word` are the list
`requests`; `per_tx_ready`, `per_xfer_complete` and `per_rxdata` are `env`. -/

namespace Sys2Proof.Machine

/-- `req_ready`: the block accepts a request, "equal to `s.phase = Idle`" (R34). -/
def reqReady (s : State) : Bool := decide (s.phase = .idle)

/-- `req_valid`: a request word is offered (R34). -/
def reqValid (s : State) : Bool := !s.requests.isEmpty

/-- `resp_valid`: the current operation has ended (R34). -/
def respValid (s : State) : Bool := s.resp.isSome

/-- Reading `resp_data`: refused where the response has no value, or there is none (R34, R76, U16; log 14). -/
def readRespData (s : State) : Except Refusal Byte :=
  match s.resp with
  | some (.byte v) => .ok v
  | some .noValue => .error .noResponseData
  | none => .error .noResponseData

/-- `diag_code` (R34, R141). -/
def diagCodePort (s : State) : BitVec 2 := diagCode s.diag

/-- `per_txdata` with its strobe: the byte that the step from this state pushes, none where it pushes none (R34, R104;
log 25). -/
def perTxData (c : Config) (s : State) : Option Byte :=
  match s.phase with
  | .waitTx op k _ => if s.upcoming .txReady 0 then some (sub c op k).tx else none
  | .waitDone _ _ _ => none
  | .idle => none

/-- The level of an abstract chip-select value (R22). -/
def csLevel (c : Config) : ChipSelect → Level
  | .asserted => c.csActiveLevel
  | .released => c.csActiveLevel.opposite

/-- The chip-select pin: at `CS_ACTIVE_LEVEL` when asserted (R34), and unspecified until the platform configures the bus
(R181; log 15). -/
def readCsPin (c : Config) (s : State) : Except Refusal Level :=
  if s.configured then .ok (csLevel c s.cs) else .error .lineUnspecified

/-! ## The serial clock

No port of the block's own, but a line of the bus (R32, R33). -/

/-- The event is a byte pushed. -/
def isByteOut : BusEvent → Bool
  | .byteOut _ => true
  | .frameStart => false
  | .byteIn _ => false
  | .frameEnd => false

/-- The event is a byte read. -/
def isByteIn : BusEvent → Bool
  | .byteIn _ => true
  | .frameStart => false
  | .byteOut _ => false
  | .frameEnd => false

/-- No byte is shifting, as far as the events tell: each byte pushed was followed by one read (R60, R112). After a byte that
was pushed and never read the exchange may still be going on (R61). -/
def wireQuiet (h : List BusEvent) : Bool := h.countP isByteOut == h.countP isByteIn

/-- The level of `SCK`: "unspecified until the platform configures the bus; after that, `SCK` idles low" (R181), so low
whenever no byte is shifting (R33), and while one may be, a free value (R112; log 15, 27). -/
def readSck (s : State) : Except Refusal Level :=
  if s.configured then
    .ok (if wireQuiet s.hist then Config.sckIdle else Config.freeSck s.hist s.env.samples)
  else .error .lineUnspecified

/-! ## All outputs -/

/-- The output ports together. -/
structure Outputs where
  reqReady : Bool
  respValid : Bool
  respData : Except Refusal Byte
  diagCode : BitVec 2
  perTxData : Option Byte
  csPin : Except Refusal Level
deriving Repr

/-- The output ports of a state (R34). -/
def outputs (c : Config) (s : State) : Outputs :=
  { reqReady := reqReady s
    respValid := respValid s
    respData := readRespData s
    diagCode := diagCodePort s
    perTxData := perTxData c s
    csPin := readCsPin c s }

end Sys2Proof.Machine
end

