-- ==== Sys2Proof/Machine/Parametric.lean ====
section
/-! DEFINITION. The same machine with the configuration as "a parameter of the step relation" (R20): every configuration
of R6 can be run and reasoned about, where `exec` and `step` have the one of the machine at hand. -/

namespace Sys2Proof.Machine

/-- `exec` under a configuration. -/
def execAt (c : Config) (i : Instr) (s : State) : Host.Outcome State Fault Refusal :=
  match i with
  | .transferR d => transferR c d s
  | .transferH d => transferH c d s
  | .rdreg a => rdreg c a s
  | .wrreg a d => wrreg c a d s
  | .rddiag => rddiag s

/-- `step` under a configuration. -/
def stepAt (c : Config) (s : State) : Host.Outcome State Fault Refusal :=
  match turn s with
  | .wait t => .next t
  | .run i t => execAt c i t
  | .reject w why => .refused (.reserved w why)

/-- The machine under a configuration. -/
def coreAt (c : Config) : Host.Core :=
  { State := State, Fault := Fault, Refusal := Refusal, step := stepAt c, reset := State.reset }

/-- `n` steps under a configuration, stopping at a refusal. -/
def runAt (c : Config) (n : Nat) (s : State) : Host.Outcome State Fault Refusal := (coreAt c).run n s

end Sys2Proof.Machine
end

