-- ==== Sys2Proof/Machine/Procedure.lean ====
section
/-! DEFINITION. Whole operations as functions: `Transfer` as R115 writes it, RDREG and WRREG as R121 and R122 write them,
RDDIAG as R140 does. The steps of R116 reach the same states. -/

namespace Sys2Proof.Machine

/-- A bounded wait: at most `m` samples of a flag, true when one of them is (R103, R105). -/
def waitFor (f : Flag) : Nat → State → Bool × State
  | 0, s => (false, s)
  | m + 1, s =>
    let p := sample f s
    if p.1 then (true, p.2) else waitFor f m p.2

/-- `Transfer(tx, hold)` on a configured bus (R115): the byte returned, and the state after. -/
def transfer (c : Config) (x : SubTransfer) (s : State) : Byte × State :=
  let ready := waitFor .txReady c.spinMax (csAssert s)
  if ready.1 then
    let done := waitFor .xferComplete c.spinMax (writeTxData x.tx ready.2)
    if done.1 then
      let rx := readRxData done.2
      (rx.1, successExit c x rx.2)
    else (Config.sentinel, timeoutExit c .transferIncomplete x.hold done.2)
  else (Config.sentinel, timeoutExit c .txPathFull x.hold ready.2)

/-- The state after a whole operation from Idle, its response delivered (R113, R114, R121, R122, R140). -/
def procedureState (c : Config) (i : Instr) (s : State) : State :=
  match i with
  | .transferR d =>
    let r := transfer c { tx := d, hold := false } s
    respond (.byte r.1) r.2
  | .transferH d =>
    let r := transfer c { tx := d, hold := true } s
    respond (.byte r.1) r.2
  | .rdreg a =>
    let r1 := transfer c { tx := cmd c.layout a .read, hold := true } s
    let r2 := transfer c (accessDataPhase c.dummyByte) r1.2
    respond (.byte r2.1) r2.2
  | .wrreg a d =>
    let r1 := transfer c { tx := cmd c.layout a .write, hold := true } s
    let r2 := transfer c (accessDataPhase d) r1.2
    respond .noValue r2.2
  | .rddiag => respond (.byte ((diagCode s.diag).setWidth 8)) s

/-- RDDIAG needs no configured bus; every other operation does (R101, R140). -/
def needsBus : Instr → Bool
  | .transferR _ => true
  | .transferH _ => true
  | .rdreg _ => true
  | .wrreg _ _ => true
  | .rddiag => false

/-- A whole operation from Idle: refused before anything is done where the bus is needed and not configured (R101). -/
def procedure (c : Config) (i : Instr) (s : State) : Host.Outcome State Fault Refusal :=
  if needsBus i && !s.configured then .refused .notConfigured else .next (procedureState c i s)

end Sys2Proof.Machine
end

