-- ==== Sys2Proof/Machine/Wire.lean ====
section
/-! DEFINITION. What the events mean on the wire: the Mode-1 waveform of one byte (R112, R33), the bit order (R54), and
the frames the transceiver sees (R11, R35). No step depends on this file. -/

namespace Sys2Proof.Machine

/-- One instant of the bus while a byte shifts: the clock, the two data lines, and whether both sides sample. -/
structure WireSample where
  sck : Level
  mosi : Bool
  miso : Bool
  sampled : Bool
deriving DecidableEq, Repr

/-- One clock pulse for bit `i`: the clock leaves its idle level at the leading edge, where both lines take the bit, and
returns to it at the trailing edge; both sides sample at the edge CPHA names. That the lines change at the leading edge is
general knowledge (G5: PRESUMED, log 16). -/
def pulse (tx rx : Byte) (i : Nat) : List WireSample :=
  [ { sck := Config.sckIdle.opposite, mosi := tx.getLsbD i, miso := rx.getLsbD i,
      sampled := decide (Config.sampleEdge = .leading) },
    { sck := Config.sckIdle, mosi := tx.getLsbD i, miso := rx.getLsbD i,
      sampled := decide (Config.sampleEdge = .trailing) } ]

/-- The eight clock pulses of one byte (R112). -/
def waveform (tx rx : Byte) : List WireSample := Config.bitOrder.flatMap (pulse tx rx)

/-- The instants at which the lines are sampled. -/
def sampledInstants (w : List WireSample) : List WireSample := w.filter (fun x => x.sampled)

/-- A byte from the bits sampled, the first of them the most significant (R54). -/
def assembleByte (bits : List Bool) : Byte :=
  bits.foldl (fun acc b => (acc <<< 1) ||| BitVec.setWidth 8 (BitVec.ofBool b)) 0

/-- The byte the transceiver takes off MOSI. -/
def receivedByTransceiver (w : List WireSample) : Byte := assembleByte ((sampledInstants w).map (fun x => x.mosi))

/-- The byte the peripheral takes off MISO. -/
def receivedByPeripheral (w : List WireSample) : Byte := assembleByte ((sampledInstants w).map (fun x => x.miso))

/-- Adds a byte to the last frame; where no frame has begun yet, the byte belongs to one that was open before the
history begins. -/
def addToLastFrame (v : Byte) : List (List Byte) → List (List Byte)
  | [] => [[v]]
  | [f] => [f ++ [v]]
  | f :: g :: rest => f :: addToLastFrame v (g :: rest)

/-- One event, as the transceiver sees it: a frame begins, or a byte arrives in the last frame (R35). -/
def seeEvent (fs : List (List Byte)) : BusEvent → List (List Byte)
  | .frameStart => fs ++ [[]]
  | .byteOut v => addToLastFrame v fs
  | .byteIn _ => fs
  | .frameEnd => fs

/-- "which bytes it received in which frame" (R35): the frames of a history, oldest first. -/
def framesOf (h : List BusEvent) : List (List Byte) := h.foldl seeEvent []

end Sys2Proof.Machine
end

