-- ==== Sys2Proof/Safety.lean ====
section
/-! DEFINITION. The terms claims use: what holds in every state the block can be in, what a safe run is, and how the
environment answers one transfer, `(t1, t2, m)` in the words of R115. -/

namespace Sys2Proof.Safety

open Sys2Proof.Machine

/-! ## Request words -/

/-- A reserved word: a field its operation does not use is not zero (R75's four lines). -/
def ReservedWord (w : ReqWord) : Prop :=
  (w.extractLsb' 16 2 = 0b00#2 ∧ w.extractLsb' 8 7 ≠ 0) ∨
  (w.extractLsb' 16 2 = 0b01#2 ∧ (w.getLsbD 15 = true ∨ w.extractLsb' 0 8 ≠ 0)) ∨
  (w.extractLsb' 16 2 = 0b10#2 ∧ w.getLsbD 15 = true) ∨
  (w.extractLsb' 16 2 = 0b11#2 ∧ (w.getLsbD 15 = true ∨ w.extractLsb' 8 7 ≠ 0 ∨ w.extractLsb' 0 8 ≠ 0))

/-! ## The sequencer -/

/-- What follows a sub-transfer (R116, `Next`): the wait for transmit-ready of the second one, or Idle with the response
delivered. -/
def PartEnded (op : BusOp) (k : Fin 2) (t : State) : Prop :=
  (hasNext op k = true → t.phase = .waitTx op 1 0) ∧
  (hasNext op k = false → t.phase = .idle ∧ t.resp.isSome = true)

/-! ## The wire -/

/-- Where the wire stands after some events: no frame open, a frame open, or a frame open whose last byte sent has not
been answered by a byte read. -/
inductive WireState where
  | outside
  | inside
  | pushed
deriving DecidableEq, Repr

/-- The events that may follow (R35, R104, R106): frames do not nest, bytes cross inside a frame only, and a byte is read
only right after one was pushed. After a timed-out exchange another byte may be pushed, or the frame may end. -/
def wireNext : WireState → BusEvent → Option WireState
  | .outside, .frameStart => some .inside
  | .outside, .byteOut _ => none
  | .outside, .byteIn _ => none
  | .outside, .frameEnd => none
  | .inside, .frameStart => none
  | .inside, .byteOut _ => some .pushed
  | .inside, .byteIn _ => none
  | .inside, .frameEnd => some .outside
  | .pushed, .frameStart => none
  | .pushed, .byteOut _ => some .pushed
  | .pushed, .byteIn _ => some .inside
  | .pushed, .frameEnd => some .outside

/-- Reads a history from a wire state; none where an event may not follow. -/
def wireScan : WireState → List BusEvent → Option WireState
  | w, [] => some w
  | w, e :: rest =>
    match wireNext w e with
    | some w' => wireScan w' rest
    | none => none

/-! ## The invariant -/

/-- The operation has two sub-transfers. -/
def twoParts : BusOp → Bool
  | .transferR _ => false
  | .transferH _ => false
  | .rdreg _ => true
  | .wrreg _ _ => true

/-- A phase of R23: `k` is 1 only in a register access, and the spin counter is in `0..SPIN_MAX-1` (R24). -/
def legalPhase (c : Config) : Phase → Prop
  | .idle => True
  | .waitTx op k n => (k = 1 → twoParts op = true) ∧ n < c.spinMax
  | .waitDone op k n => (k = 1 → twoParts op = true) ∧ n < c.spinMax

/-- The invariant: what every state the block reaches satisfies. -/
structure Inv (c : Config) (s : State) : Prop where
  /-- The phase is one of R23. -/
  phase_legal : legalPhase c s.phase
  /-- An operation in progress had a configured bus (R101). -/
  busy_configured : s.phase ≠ .idle → s.configured = true
  /-- An operation in progress has chip-select asserted (R102). -/
  busy_selected : s.phase ≠ .idle → s.cs = .asserted
  /-- The history is one the wire can carry, and a frame is open in it exactly when chip-select is asserted (R35). -/
  wire : ∃ w, wireScan .outside s.hist = some w ∧ (w = .outside ↔ s.cs = .released)
  /-- While transfer-complete is awaited the last event is the byte pushed (R104, R105). -/
  awaiting_pushed : ∀ op k n, s.phase = .waitDone op k n → wireScan .outside s.hist = some .pushed
  /-- A response stands on the port in Idle only (R26). -/
  response_idle : s.resp ≠ none → s.phase = .idle
  /-- A response on the port is the last one reported. -/
  response_reported : ∀ r, s.resp = some r → s.reports.getLast? = some r

/-- A safe run: it carries no refusal mark (R153). -/
def SafeRun (c : Config) (n : Nat) (s : State) : Prop := ∃ t, runAt c n s = .next t

/-! ## The environment of one transfer -/

/-- The state after `t` samples of a flag and nothing else. -/
def afterSamples (f : Flag) (t : Nat) (s : State) : State :=
  match f with
  | .txReady =>
    { s with env := { s.env with txReady := s.env.txReady.drop t, samples := s.env.samples + t } }
  | .xferComplete =>
    { s with env := { s.env with xferComplete := s.env.xferComplete.drop t, samples := s.env.samples + t } }

/-- The `t`-th sample of the flag from here, counted from 1, is the first that is true (R115: `t1` and `t2`). -/
def SeenAt (s : State) (f : Flag) (t : Nat) : Prop :=
  1 ≤ t ∧ s.upcoming f (t - 1) = true ∧ ∀ j, j < t - 1 → s.upcoming f j = false

/-- The first `m` samples of the flag from here are all false. -/
def NotSeenWithin (s : State) (f : Flag) (m : Nat) : Prop := ∀ j, j < m → s.upcoming f j = false

/-- The state in which a transfer begun at `s`, whose transmit-ready came at sample `t1`, has pushed its byte. -/
def pushedState (x : SubTransfer) (t1 : Nat) (s : State) : State :=
  writeTxData x.tx (afterSamples .txReady t1 (csAssert s))

/-- The state in which it has seen transfer-complete at sample `t2`. -/
def completedState (x : SubTransfer) (t1 t2 : Nat) (s : State) : State :=
  afterSamples .xferComplete t2 (pushedState x t1 s)

/-- The byte it then receives (R115: `m`). -/
def receivedByte (x : SubTransfer) (t1 t2 : Nat) (s : State) : Byte := (completedState x t1 t2 s).upcomingByte

/-- Both flags come in time, at samples `t1` and `t2`. -/
def Answered (c : Config) (x : SubTransfer) (t1 t2 : Nat) (s : State) : Prop :=
  SeenAt (csAssert s) .txReady t1 ∧ t1 ≤ c.spinMax ∧
    SeenAt (pushedState x t1 s) .xferComplete t2 ∧ t2 ≤ c.spinMax

/-- Transmit-ready does not come in time (R115: `t1 > SPIN_MAX`). -/
def NeverReady (c : Config) (s : State) : Prop := NotSeenWithin (csAssert s) .txReady c.spinMax

/-- Transmit-ready comes at sample `t1`, transfer-complete does not come in time (R115: `t2 > SPIN_MAX`). -/
def NeverComplete (c : Config) (x : SubTransfer) (t1 : Nat) (s : State) : Prop :=
  SeenAt (csAssert s) .txReady t1 ∧ t1 ≤ c.spinMax ∧ NotSeenWithin (pushedState x t1 s) .xferComplete c.spinMax

/-- The state after a transfer that was answered. -/
def answeredEnd (c : Config) (x : SubTransfer) (t1 t2 : Nat) (s : State) : State :=
  successExit c x (readRxData (completedState x t1 t2 s)).2

/-- The state after a transfer that timed out waiting for transmit-ready. -/
def neverReadyEnd (c : Config) (x : SubTransfer) (s : State) : State :=
  timeoutExit c .txPathFull x.hold (afterSamples .txReady c.spinMax (csAssert s))

/-- The state after a transfer that timed out waiting for transfer-complete. -/
def neverCompleteEnd (c : Config) (x : SubTransfer) (t1 : Nat) (s : State) : State :=
  timeoutExit c .transferIncomplete x.hold (afterSamples .xferComplete c.spinMax (pushedState x t1 s))

/-- A transfer that times out releases chip-select: what `CS_ON_TIMEOUT` says, for its hold flag (R108). -/
def timeoutReleases (c : Config) (hold : Bool) : Bool :=
  match c.csOnTimeout with
  | .followHold => !hold
  | .release => true
  | .keep => false

/-- Chip-select after a timeout of a transfer (R108): it was asserted during it. -/
def csAfterTimeout (c : Config) (hold : Bool) : ChipSelect :=
  if timeoutReleases c hold then .released else .asserted

/-- The events of a timeout's treatment of chip-select (R108). -/
def timeoutClosing (c : Config) (hold : Bool) : List BusEvent :=
  if timeoutReleases c hold then [.frameEnd] else []

end Sys2Proof.Safety
end

