-- ==== Sys2Proof/Certificates/Slice0/Obligations.lean ====
section
/-! DEFINITION. What is claimed of the model: statements only, no proofs. A statement about `exec`, `step` or
`Sys2Proof.core` is about the machine at its own configuration, `Config.platform`, of which nothing is known but that it is
a configuration of R6, so it is a statement about each of them. -/

open Sys2Proof Sys2Proof.Machine Sys2Proof.Safety

/-! ## Encoding -/

/-- R70, R71: the word of four fields, as a number: `op` in bits 17:16, `h` in bit 15, `a` in bits 14:8, `d` in bits
7:0; the codes of `op`; and the operation each code and hold flag names, its unused fields being zero. -/
def Obligations.RequestWordPacksFourFields : Prop :=
  (∀ f : ReqFields,
    f.pack.toNat = f.op.code.toNat * 2 ^ 16 + f.h.toNat * 2 ^ 15 + f.a.toNat * 2 ^ 8 + f.d.toNat) ∧
  (OpField.transfer.code = 0b00#2 ∧ OpField.rdreg.code = 0b01#2 ∧ OpField.wrreg.code = 0b10#2 ∧
    OpField.rddiag.code = 0b11#2) ∧
  (∀ w : ReqWord, (ReqWord.fields w).pack = w) ∧ (∀ f : ReqFields, ReqWord.fields f.pack = f) ∧
  (∀ f : ReqFields, f.wellFormed = true →
    decode f.pack = .ok (match f.op with
      | .transfer => if f.h then .transferH f.d else .transferR f.d
      | .rdreg => .rdreg f.a
      | .wrreg => .wrreg f.a f.d
      | .rddiag => .rddiag))

/-- R80, R82: decoding what a well-formed operation is encoded as gives it back, and a word that decodes to an operation
is its encoding, so each operation has one word and each word at most one operation. -/
def Obligations.DecodeAndEncodeAreInverse : Prop :=
  (∀ i : Instr, i.wellFormed = true → decode (encode i) = .ok i) ∧
  (∀ (w : ReqWord) (i : Instr), decode w = .ok i → encode i = w)

/-- R82: at most one row of the match/mask table matches a word, and the decoder reads an operation exactly where the
operation's row matches; where no row matches it refuses. -/
def Obligations.DecodeAgreesWithTheMatchMaskTable : Prop :=
  ∀ w : ReqWord,
    (table.filter (fun r => r.matchesWord w)).length ≤ 1 ∧
    (∀ i, decode w = .ok i → ∃ r ∈ table, r.matchesWord w = true ∧ r.mnemonic = i.mnemonic) ∧
    ((∃ e, decode w = .error e) ↔ ∀ r ∈ table, r.matchesWord w = false)

/-- A reserved word is one of the four lines of R75. A word spells an operation exactly when it is not reserved, and a
reserved word offered in Idle, and no other, is refused as reserved. The refusal is no next state, so there is no event and
no change. That every word is an operation or reserved is the last sentence of R75, which the spec marks as its own
inference ("derived: from rule R71 and this rule"). -/
def Obligations.ReservedWordsAreRefused : Prop :=
  (∀ w : ReqWord, (∃ i, decode w = .ok i) ↔ ¬ ReservedWord w) ∧
  ∀ (s : State) (w : ReqWord) (rest : List ReqWord), s.phase = .idle → s.requests = w :: rest →
    ((∃ why, step s = .refused (.reserved w why)) ↔ ReservedWord w)

/-- The decode table of 95_test_vectors.md section 4, word by word. -/
def Obligations.SampleWordsDecode : Prop :=
  decode 0x000A5 = .ok (.transferR 0xA5) ∧ decode 0x080A5 = .ok (.transferH 0xA5) ∧
  decode 0x10300 = .ok (.rdreg 0x03) ∧ decode 0x22001 = .ok (.wrreg 0x20 0x01) ∧
  decode 0x30000 = .ok .rddiag ∧ decode 0x00100 = .error .transferAddr ∧
  decode 0x18000 = .error .rdregHold ∧ decode 0x10301 = .error .rdregData ∧
  decode 0x28000 = .error .wrregHold ∧ decode 0x30001 = .error .rddiagData ∧
  decode 0x3FFFF = .error .rddiagHold

/-- R77: under every layout the address is placed injectively with the read bit clear, the command byte is the placed
address with the read bit set for a read, and it is injective on (address, discriminator) pairs. -/
def Obligations.CommandByteIsInjective : Prop :=
  ∀ (l : CmdLayout) (a a' : RegAddr) (rw rw' : Rw),
    (l.place a).getLsbD l.rpos.val = false ∧ (l.place a = l.place a' → a = a') ∧
    cmd l a .write = l.place a ∧ cmd l a .read = l.place a ||| (1#8 <<< l.rpos.val) ∧
    ((cmd l a rw).getLsbD l.rpos.val = true ↔ rw = .read) ∧
    (cmd l a rw = cmd l a' rw' → a = a' ∧ rw = rw')

/-- R78: the default layout puts the address in bits 7:1 and the read bit in bit 0. The layout is the spec's general
knowledge and the model's default only (log 19). -/
def Obligations.DefaultLayoutIsAddressThenReadBit : Prop :=
  ∀ a : RegAddr, cmd {} a .read = (a.setWidth 8 <<< 1) ||| 1#8 ∧ cmd {} a .write = a.setWidth 8 <<< 1

/-- R80: the assembler refuses exactly the lines with an operand that does not fit, an operation written out assembles to
its word, and the pseudo-instructions expand as listed. -/
def Obligations.AssemblerLinesAssemble : Prop :=
  (∀ i : Instr, i.asm.assemble = some [encode i]) ∧
  (∀ d b, AsmLine.assemble (.transfer d b) = if b then AsmLine.assemble (.transferH d) else AsmLine.assemble (.transferR d)) ∧
  (∀ a, AsmLine.assemble (.readreg a) = AsmLine.assemble (.rdreg a)) ∧
  (∀ a d, AsmLine.assemble (.writereg a d) = AsmLine.assemble (.wrreg a d)) ∧
  (∀ d0, AsmLine.assemble (.frame d0 []) = AsmLine.assemble (.transferR d0)) ∧
  (∀ d0 d1 rest ws, AsmLine.assemble (.frame d1 rest) = some ws → d0 < 256 →
    AsmLine.assemble (.frame d0 (d1 :: rest)) = some (encode (.transferH (BitVec.ofNat 8 d0)) :: ws)) ∧
  (∀ d0 rest, (∃ d ∈ d0 :: rest, 256 ≤ d) → AsmLine.assemble (.frame d0 rest) = none) ∧
  (∀ a, AsmLine.assemble (.rdreg a) = none ↔ 128 ≤ a) ∧
  (∀ a d, AsmLine.assemble (.wrreg a d) = none ↔ 128 ≤ a ∨ 256 ≤ d) ∧
  (∀ d, AsmLine.assemble (.transferR d) = none ↔ 256 ≤ d) ∧
  (∀ d, AsmLine.assemble (.transferH d) = none ↔ 256 ≤ d)

/-! ## Reset, waiting, and whose turn it is -/

/-- What reset leaves (R181's values are decision D10: log 7); a power cycle leaves it from any state, the environment's
answers not being the block's to reset (the model's choice, log 9); the chip-select pin and the clock are unspecified until
the platform configures the bus, which the model makes a refusal of looking at them (log 15), and after that chip-select is
released and the clock low. -/
def Obligations.ResetAndPowerCycleLeaveTheBlockIdle : Prop :=
  (State.reset.cs = .released ∧ State.reset.phase = .idle ∧ State.reset.diag = none ∧
    State.reset.configured = false ∧ State.reset.hist = []) ∧
  ∀ s : State, (powerCycle s).cs = .released ∧ (powerCycle s).phase = .idle ∧ (powerCycle s).diag = none ∧
    (powerCycle s).configured = false ∧ (powerCycle s).hist = [] ∧ (powerCycle s).env = s.env ∧
    ∀ c : Config, readCsPin c (powerCycle s) = .error .lineUnspecified ∧
      readCsPin c (configureBus (powerCycle s)) = .ok c.csActiveLevel.opposite ∧
      readSck (powerCycle s) = .error .lineUnspecified ∧ readSck (configureBus (powerCycle s)) = .ok .low

/-- R182, R63: with no request the block waits in Idle, after reset and at any time; only the response port is cleared
(R26; that it holds for one state is the model's choice, log 6). -/
def Obligations.IdleBlockWaitsForARequest : Prop :=
  step State.reset = .next State.reset ∧
  ∀ s : State, s.phase = .idle → s.requests = [] → step s = .next { s with resp := none }

/-- R23, R59, R116: in Idle a step takes the offered word and does what `exec` does with the operation it decodes to;
otherwise it does the next action of the operation in progress, and the offered words stay where they are. The response
port is cleared first (log 6). -/
def Obligations.StepRunsTheDecodedRequest : Prop :=
  (∀ (s : State) (w : ReqWord) (rest : List ReqWord) (i : Instr), s.phase = .idle → s.requests = w :: rest →
    decode w = .ok i → step s = exec i { s with requests := rest, resp := none }) ∧
  (∀ (s : State) (op : BusOp) (k : Fin 2) (n : Nat), s.phase = .waitTx op k n →
    step s = exec op.instr { s with resp := none }) ∧
  (∀ (s : State) (op : BusOp) (k : Fin 2) (n : Nat), s.phase = .waitDone op k n →
    step s = exec op.instr { s with resp := none })

/-- R153, R155: a reserved word is refused as Reserved whether the bus is configured or not; an operation that needs the
bus is refused as NotConfigured only then; and outside Idle (Busy) a request is neither taken nor refused. -/
def Obligations.RefusalsComeInOrder : Prop :=
  (∀ (s : State) (w : ReqWord) (rest : List ReqWord) (why : ReservedField), s.phase = .idle →
    s.requests = w :: rest → decode w = .error why → step s = .refused (.reserved w why)) ∧
  (∀ (s : State) (op : BusOp) (rest : List ReqWord), s.phase = .idle → s.requests = encode op.instr :: rest →
    s.configured = false → step s = .refused .notConfigured) ∧
  (∀ s : State, s.phase ≠ .idle → ∃ t, step s = .next t ∧ t.requests = s.requests)

/-- R101: a transfer is refused while the bus is not configured. A refusal is no next state, so there is no event and no
change. -/
def Obligations.TransfersNeedAConfiguredBus : Prop :=
  ∀ (op : BusOp) (s : State), s.phase = .idle → s.configured = false → exec op.instr s = .refused .notConfigured

/-- R184: before the bus is configured every operation but RDDIAG is refused; RDDIAG is accepted, configured or not. -/
def Obligations.OnlyRddiagRunsBeforeBoot : Prop :=
  ∀ (i : Instr) (s : State) (rest : List ReqWord), s.phase = .idle → s.requests = encode i :: rest →
    (i ≠ .rddiag → s.configured = false → step s = .refused .notConfigured) ∧
    (i = .rddiag → ∃ t, step s = .next t ∧ t.resp.isSome = true)

/-- R158: nothing but what R116 says leaves a wait. A step from WaitTx or WaitDone uses exactly one flag sample. Seen,
transmit-ready leads to WaitDone with the counter at 0, and transfer-complete ends the sub-transfer; a false sample stays in
the wait with the counter one up, and only the false sample that brings the counter to SPIN_MAX ends the sub-transfer. -/
def Obligations.WaitsAreLeftBySamplesOnly : Prop :=
  ∀ (s t : State) (op : BusOp) (k : Fin 2) (n : Nat), step s = .next t →
    (s.phase = .waitTx op k n →
      t.env.samples = s.env.samples + 1 ∧
      (s.upcoming .txReady 0 = true → t.phase = .waitDone op k 0) ∧
      (s.upcoming .txReady 0 = false → n + 1 ≠ Config.platform.spinMax → t.phase = .waitTx op k (n + 1)) ∧
      (s.upcoming .txReady 0 = false → n + 1 = Config.platform.spinMax → PartEnded op k t)) ∧
    (s.phase = .waitDone op k n →
      t.env.samples = s.env.samples + 1 ∧
      (s.upcoming .xferComplete 0 = true → PartEnded op k t) ∧
      (s.upcoming .xferComplete 0 = false → n + 1 ≠ Config.platform.spinMax → t.phase = .waitDone op k (n + 1)) ∧
      (s.upcoming .xferComplete 0 = false → n + 1 = Config.platform.spinMax → PartEnded op k t))

/-! ## The sequencer's actions -/

/-- R102: a transfer starts by asserting chip-select: a frame starts where none was open, and nothing is recorded where
one was. So it is when an operation is accepted, with nothing else changed but the phase, and when a register access goes
on to its second transfer. -/
def Obligations.AcceptedRequestAssertsChipSelect : Prop :=
  (∀ (op : BusOp) (s : State), s.phase = .idle → s.configured = true →
    (s.cs = .released →
      exec op.instr s =
        .next { s with cs := .asserted, phase := .waitTx op 0 0, hist := s.hist ++ [.frameStart] }) ∧
    (s.cs = .asserted → exec op.instr s = .next { s with phase := .waitTx op 0 0 })) ∧
  (∀ (op : BusOp) (k : Fin 2) (r : Byte) (s : State), hasNext op k = true →
    (s.cs = .released →
      nextPart op k r s = { s with cs := .asserted, phase := .waitTx op 1 0, hist := s.hist ++ [.frameStart] }) ∧
    (s.cs = .asserted → nextPart op k r s = { s with phase := .waitTx op 1 0 }))

/-- R104: when transmit-ready is seen the byte of the sub-transfer is pushed, and the second wait begins with a counter of
its own at 0; nothing else changes but the answer drawn. No other step pushes a byte, so it is pushed exactly once. -/
def Obligations.TransmitReadyPushesTheByte : Prop :=
  (∀ (op : BusOp) (k : Fin 2) (n : Nat) (s : State), s.phase = .waitTx op k n → s.upcoming .txReady 0 = true →
    exec op.instr s =
      .next { s with
        phase := .waitDone op k 0
        hist := s.hist ++ [.byteOut (sub Config.platform op k).tx]
        env := s.env.afterSample .txReady }) ∧
  (∀ s t : State, step s = .next t →
    (∀ op k n, s.phase = .waitTx op k n → s.upcoming .txReady 0 = false) →
    ∃ es, t.hist = s.hist ++ es ∧ ∀ v, BusEvent.byteOut v ∉ es)

/-- R24: a false sample that is not the last allowed one adds 1 to the counter and changes nothing else but the answer
drawn; the last allowed one records the cause and leaves the wait, for the second sub-transfer of a register access or for
Idle with a response; and in every step from a legal state the counter stays below SPIN_MAX. -/
def Obligations.FalseSamplesAreCounted : Prop :=
  (∀ (op : BusOp) (k : Fin 2) (n : Nat) (s : State), s.phase = .waitTx op k n → s.upcoming .txReady 0 = false →
    (n + 1 ≠ Config.platform.spinMax →
      exec op.instr s = .next { s with phase := .waitTx op k (n + 1), env := s.env.afterSample .txReady }) ∧
    (n + 1 = Config.platform.spinMax →
      ∃ t, exec op.instr s = .next t ∧ t.diag = some .txPathFull ∧ PartEnded op k t)) ∧
  (∀ (op : BusOp) (k : Fin 2) (n : Nat) (s : State), s.phase = .waitDone op k n →
    s.upcoming .xferComplete 0 = false →
    (n + 1 ≠ Config.platform.spinMax →
      exec op.instr s = .next { s with phase := .waitDone op k (n + 1), env := s.env.afterSample .xferComplete }) ∧
    (n + 1 = Config.platform.spinMax →
      ∃ t, exec op.instr s = .next t ∧ t.diag = some .transferIncomplete ∧ PartEnded op k t)) ∧
  (∀ s t : State, legalPhase Config.platform s.phase → step s = .next t → legalPhase Config.platform t.phase)

/-- R106, R107: when transfer-complete is seen the received byte is read and recorded; then chip-select is released unless
the sub-transfer holds; then the cause is cleared under Clear and left under Keep, in either sub-transfer of a register
access as in a TRANSFER. The last sub-transfer delivers the response and returns to Idle; the command byte of a register
access goes on to the second wait for transmit-ready. -/
def Obligations.TransferCompleteEndsTheTransfer : Prop :=
  ∀ (op : BusOp) (k : Fin 2) (n : Nat) (s : State), s.phase = .waitDone op k n → s.cs = .asserted →
    s.upcoming .xferComplete 0 = true →
    (hasNext op k = false →
      exec op.instr s =
        .next { s with
          cs := if (sub Config.platform op k).hold then .asserted else .released
          phase := .idle
          diag := match Config.platform.diagOnSuccess with
            | .keep => s.diag
            | .clear => none
          hist := s.hist ++ [.byteIn s.upcomingByte] ++
            if (sub Config.platform op k).hold then [] else [.frameEnd]
          resp := some (responseOf op s.upcomingByte)
          reports := s.reports ++ [responseOf op s.upcomingByte]
          env := (s.env.afterSample .xferComplete).afterRead }) ∧
    (hasNext op k = true →
      exec op.instr s =
        .next { s with
          phase := .waitTx op 1 0
          diag := match Config.platform.diagOnSuccess with
            | .keep => s.diag
            | .clear => none
          hist := s.hist ++ [.byteIn s.upcomingByte]
          env := (s.env.afterSample .xferComplete).afterRead })

/-- R108, for the last sub-transfer of an operation: the cause is recorded, chip-select is treated as CS_ON_TIMEOUT says,
0xFF is the sub-transfer's result, and the block is Idle. Nothing else changes: no byte is pushed or read (R109). -/
def Obligations.TimeoutOfTheLastPartEndsTheOperation : Prop :=
  ∀ (op : BusOp) (k : Fin 2) (n : Nat) (s : State) (flag : Flag) (cause : Cause),
    (s.phase = .waitTx op k n ∧ flag = .txReady ∧ cause = .txPathFull) ∨
      (s.phase = .waitDone op k n ∧ flag = .xferComplete ∧ cause = .transferIncomplete) →
    s.cs = .asserted → s.upcoming flag 0 = false → n + 1 = Config.platform.spinMax → hasNext op k = false →
    ∃ t, exec op.instr s = .next t ∧ t.diag = some cause ∧ t.phase = .idle ∧
      t.resp = some (responseOf op 0xFF) ∧ t.reports = s.reports ++ [responseOf op 0xFF] ∧
      t.configured = s.configured ∧ t.requests = s.requests ∧ t.env = s.env.afterSample flag ∧
      (Config.platform.csOnTimeout = .followHold →
        (((sub Config.platform op k).hold = true → t.cs = .asserted ∧ t.hist = s.hist) ∧
          ((sub Config.platform op k).hold = false → t.cs = .released ∧ t.hist = s.hist ++ [.frameEnd]))) ∧
      (Config.platform.csOnTimeout = .release → t.cs = .released ∧ t.hist = s.hist ++ [.frameEnd]) ∧
      (Config.platform.csOnTimeout = .keep → t.cs = .asserted ∧ t.hist = s.hist)

/-- R123: a timeout in the command phase of a register access does not stop the data phase: the wait for its transmit-ready
begins, in the same frame under FollowHold and Keep and in a new frame under Release. -/
def Obligations.TimeoutOfTheCommandPhaseGoesOn : Prop :=
  ∀ (op : BusOp) (n : Nat) (s : State) (flag : Flag) (cause : Cause),
    (s.phase = .waitTx op 0 n ∧ flag = .txReady ∧ cause = .txPathFull) ∨
      (s.phase = .waitDone op 0 n ∧ flag = .xferComplete ∧ cause = .transferIncomplete) →
    s.cs = .asserted → s.upcoming flag 0 = false → n + 1 = Config.platform.spinMax → twoParts op = true →
    exec op.instr s =
      .next { s with
        phase := .waitTx op 1 0
        diag := some cause
        hist := s.hist ++ match Config.platform.csOnTimeout with
          | .followHold => []
          | .release => [.frameEnd, .frameStart]
          | .keep => []
        env := s.env.afterSample flag }

/-- R140: RDDIAG is the word 0x30000 and no other. In Idle it responds with the code of the recorded cause, configured or
not, and changes nothing else; after reset it answers 0x00, after a cause 0x01 or 0x02, and never more; under Keep a seen
transfer-complete leaves the cause. -/
def Obligations.RddiagReadsTheRecordedCause : Prop :=
  (∀ w : ReqWord, decode w = .ok .rddiag ↔ w = 0x30000) ∧
  (∀ s : State, s.phase = .idle →
    exec .rddiag s =
      .next { s with
        resp := some (.byte ((diagCode s.diag).setWidth 8))
        reports := s.reports ++ [.byte ((diagCode s.diag).setWidth 8)] }) ∧
  (∀ s : State, (s.diag = none → (diagCode s.diag).setWidth 8 = (0x00 : Byte)) ∧
    (s.diag = some .txPathFull → (diagCode s.diag).setWidth 8 = (0x01 : Byte)) ∧
    (s.diag = some .transferIncomplete → (diagCode s.diag).setWidth 8 = (0x02 : Byte))) ∧
  State.reset.diag = none ∧ (∀ s : State, ((diagCode s.diag).setWidth 8).toNat < (0x03 : Byte).toNat) ∧
  (∀ (c : Config) (op : BusOp) (k : Fin 2) (n : Nat) (s : State), c.diagOnSuccess = .keep →
    s.upcoming .xferComplete 0 = true → (sampleDone c op k n s).diag = s.diag)

/-- R141: the 2-bit codes; 0b11 is never produced; None is set by reset and by a seen transfer-complete under Clear, the two
causes by the last false sample of the two waits. -/
def Obligations.DiagnosticCodes : Prop :=
  diagCode none = 0b00#2 ∧ diagCode (some .txPathFull) = 0b01#2 ∧ diagCode (some .transferIncomplete) = 0b10#2 ∧
  (∀ d, diagCode d ≠ 0b11#2) ∧ diagCode State.reset.diag = 0b00#2 ∧
  (∀ (c : Config) (op : BusOp) (k : Fin 2) (n : Nat) (s : State), c.diagOnSuccess = .clear →
    s.upcoming .xferComplete 0 = true → diagCode (sampleDone c op k n s).diag = 0b00#2) ∧
  (∀ (c : Config) (op : BusOp) (k : Fin 2) (n : Nat) (s : State), n + 1 = c.spinMax →
    (s.upcoming .txReady 0 = false → diagCode (sampleTx c op k n s).diag = 0b01#2) ∧
    (s.upcoming .xferComplete 0 = false → diagCode (sampleDone c op k n s).diag = 0b10#2))

/-- The frame of the instructions: what each leaves alone, whatever it does (R21, R25, R27, R28, R35, R140). None
touches the configured flag or the offered requests, or takes back an event or a report; RDDIAG touches no chip-select,
cause, event or answer of the environment; accepting a bus operation touches no
cause, answer or response; and an action that does not end the operation delivers nothing. -/
def Obligations.InstructionsLeaveTheRestAlone : Prop :=
  ∀ (i : Instr) (s t : State), exec i s = .next t →
    t.configured = s.configured ∧ t.requests = s.requests ∧
    s.hist <+: t.hist ∧ s.reports <+: t.reports ∧
    (i = .rddiag → t.cs = s.cs ∧ t.diag = s.diag ∧ t.hist = s.hist ∧ t.env = s.env ∧ t.phase = s.phase) ∧
    (s.phase = .idle → i ≠ .rddiag →
      t.diag = s.diag ∧ t.env = s.env ∧ t.resp = s.resp ∧ t.reports = s.reports) ∧
    (t.phase ≠ .idle → t.resp = s.resp ∧ t.reports = s.reports)

/-! ## Whole operations -/

/-- R113, R115: TRANSFER.R with both flags in time, from request to response: `exec` answers the accepted state, and after
`t1 + t2` steps the response is the received byte, chip-select is released, and the wire saw the byte out, the byte in, and
the end of the frame, which is the one that was open or a new one. -/
def Obligations.TransferReleaseExchangesOneByte : Prop :=
  ∀ (d : Byte) (t1 t2 : Nat) (s : State), s.phase = .idle → s.configured = true →
    Answered Config.platform { tx := d, hold := false } t1 t2 s →
    ∃ t u, exec (.transferR d) s = .next t ∧ Sys2Proof.core.run (t1 + t2) t = .next u ∧
      u.resp = some (.byte (receivedByte { tx := d, hold := false } t1 t2 s)) ∧
      u.reports = s.reports ++ [.byte (receivedByte { tx := d, hold := false } t1 t2 s)] ∧
      u.cs = .released ∧ u.phase = .idle ∧
      u.hist = s.hist ++ (match s.cs with
          | .released => [.frameStart]
          | .asserted => []) ++
        [.byteOut d, .byteIn (receivedByte { tx := d, hold := false } t1 t2 s), .frameEnd] ∧
      u.diag = (match Config.platform.diagOnSuccess with
          | .keep => s.diag
          | .clear => none) ∧
      u.configured = s.configured ∧ u.requests = s.requests ∧
      u.env.samples = s.env.samples + t1 + t2 ∧ u.env.reads = s.env.reads + 1

/-- R114, R115: TRANSFER.H with both flags in time: as TRANSFER.R, but chip-select stays asserted and the frame open. -/
def Obligations.TransferHoldExchangesOneByte : Prop :=
  ∀ (d : Byte) (t1 t2 : Nat) (s : State), s.phase = .idle → s.configured = true →
    Answered Config.platform { tx := d, hold := true } t1 t2 s →
    ∃ t u, exec (.transferH d) s = .next t ∧ Sys2Proof.core.run (t1 + t2) t = .next u ∧
      u.resp = some (.byte (receivedByte { tx := d, hold := true } t1 t2 s)) ∧
      u.reports = s.reports ++ [.byte (receivedByte { tx := d, hold := true } t1 t2 s)] ∧
      u.cs = .asserted ∧ u.phase = .idle ∧
      u.hist = s.hist ++ (match s.cs with
          | .released => [.frameStart]
          | .asserted => []) ++
        [.byteOut d, .byteIn (receivedByte { tx := d, hold := true } t1 t2 s)] ∧
      u.diag = (match Config.platform.diagOnSuccess with
          | .keep => s.diag
          | .clear => none) ∧
      u.configured = s.configured ∧ u.requests = s.requests ∧
      u.env.samples = s.env.samples + t1 + t2 ∧ u.env.reads = s.env.reads + 1

/-- R120, R121, R125: RDREG with every flag in time: the command byte with the read bit set and the dummy byte cross in one
frame, the frame closes, and the response is the second byte received; the first is recorded and does not matter. -/
def Obligations.RegisterReadIsTwoTransfersInOneFrame : Prop :=
  ∀ (a : RegAddr) (t1 t2 t3 t4 : Nat) (s : State), s.phase = .idle → s.configured = true →
    Answered Config.platform { tx := cmd Config.platform.layout a .read, hold := true } t1 t2 s →
    Answered Config.platform (accessDataPhase Config.platform.dummyByte) t3 t4
      (answeredEnd Config.platform { tx := cmd Config.platform.layout a .read, hold := true } t1 t2 s) →
    ∃ t u, exec (.rdreg a) s = .next t ∧ Sys2Proof.core.run (t1 + t2 + (t3 + t4)) t = .next u ∧
      ∃ x y, x = receivedByte { tx := cmd Config.platform.layout a .read, hold := true } t1 t2 s ∧
        y = receivedByte (accessDataPhase Config.platform.dummyByte) t3 t4
          (answeredEnd Config.platform { tx := cmd Config.platform.layout a .read, hold := true } t1 t2 s) ∧
        u.resp = some (.byte y) ∧ u.reports = s.reports ++ [.byte y] ∧ u.cs = .released ∧ u.phase = .idle ∧
        u.hist = s.hist ++ (match s.cs with
            | .released => [.frameStart]
            | .asserted => []) ++
          [.byteOut (cmd Config.platform.layout a .read), .byteIn x, .byteOut Config.platform.dummyByte, .byteIn y,
            .frameEnd] ∧
        u.diag = (match Config.platform.diagOnSuccess with
            | .keep => s.diag
            | .clear => none) ∧
        u.configured = s.configured ∧ u.requests = s.requests ∧
        u.env.samples = s.env.samples + t1 + t2 + t3 + t4 ∧ u.env.reads = s.env.reads + 2

/-- R120, R122, R125: WRREG with every flag in time: the command byte with the read bit clear and the value cross in one
frame, the frame closes, and the response has no value; both bytes received are recorded and do not matter. -/
def Obligations.RegisterWriteIsTwoTransfersInOneFrame : Prop :=
  ∀ (a : RegAddr) (d : Byte) (t1 t2 t3 t4 : Nat) (s : State), s.phase = .idle → s.configured = true →
    Answered Config.platform { tx := cmd Config.platform.layout a .write, hold := true } t1 t2 s →
    Answered Config.platform (accessDataPhase d) t3 t4
      (answeredEnd Config.platform { tx := cmd Config.platform.layout a .write, hold := true } t1 t2 s) →
    ∃ t u, exec (.wrreg a d) s = .next t ∧ Sys2Proof.core.run (t1 + t2 + (t3 + t4)) t = .next u ∧
      ∃ x y, x = receivedByte { tx := cmd Config.platform.layout a .write, hold := true } t1 t2 s ∧
        y = receivedByte (accessDataPhase d) t3 t4
          (answeredEnd Config.platform { tx := cmd Config.platform.layout a .write, hold := true } t1 t2 s) ∧
        u.resp = some .noValue ∧ u.reports = s.reports ++ [.noValue] ∧ u.cs = .released ∧ u.phase = .idle ∧
        u.hist = s.hist ++ (match s.cs with
            | .released => [.frameStart]
            | .asserted => []) ++
          [.byteOut (cmd Config.platform.layout a .write), .byteIn x, .byteOut d, .byteIn y, .frameEnd] ∧
        u.diag = (match Config.platform.diagOnSuccess with
            | .keep => s.diag
            | .clear => none) ∧
        u.configured = s.configured ∧ u.requests = s.requests ∧
        u.env.samples = s.env.samples + t1 + t2 + t3 + t4 ∧ u.env.reads = s.env.reads + 2

/-- R103, R108, R109: a TRANSFER whose transmit-ready does not come ends after exactly SPIN_MAX samples with 0xFF and
TxPathFull; no byte is pushed or read. -/
def Obligations.TransferTimesOutWaitingForTransmitReady : Prop :=
  ∀ (d : Byte) (hold : Bool) (s : State), s.phase = .idle → s.configured = true →
    NeverReady Config.platform s →
    ∃ t u, exec (if hold then .transferH d else .transferR d) s = .next t ∧
      Sys2Proof.core.run Config.platform.spinMax t = .next u ∧
      u.resp = some (.byte 0xFF) ∧ u.reports = s.reports ++ [.byte 0xFF] ∧ u.diag = some .txPathFull ∧
      u.phase = .idle ∧ u.cs = csAfterTimeout Config.platform hold ∧
      u.hist = s.hist ++ frameOpening s.cs ++ timeoutClosing Config.platform hold ∧
      u.configured = s.configured ∧ u.requests = s.requests ∧
      u.env.samples = s.env.samples + Config.platform.spinMax ∧ u.env.reads = s.env.reads

/-- R105, R108, R109: a TRANSFER whose transmit-ready comes at sample `t1` and whose transfer-complete does not come ends
after `t1 + SPIN_MAX` samples with 0xFF and TransferIncomplete; the byte was pushed and none is read. -/
def Obligations.TransferTimesOutWaitingForTransferComplete : Prop :=
  ∀ (d : Byte) (hold : Bool) (t1 : Nat) (s : State), s.phase = .idle → s.configured = true →
    NeverComplete Config.platform { tx := d, hold := hold } t1 s →
    ∃ t u, exec (if hold then .transferH d else .transferR d) s = .next t ∧
      Sys2Proof.core.run (t1 + Config.platform.spinMax) t = .next u ∧
      u.resp = some (.byte 0xFF) ∧ u.reports = s.reports ++ [.byte 0xFF] ∧ u.diag = some .transferIncomplete ∧
      u.phase = .idle ∧ u.cs = csAfterTimeout Config.platform hold ∧
      u.hist = s.hist ++ frameOpening s.cs ++ [.byteOut d] ++ timeoutClosing Config.platform hold ∧
      u.configured = s.configured ∧ u.requests = s.requests ∧
      u.env.samples = s.env.samples + t1 + Config.platform.spinMax ∧ u.env.reads = s.env.reads

/-- R123, R189: a register access whose command phase finds no transmit-ready and whose data phase is answered: the
data byte goes out as the first byte of its frame, whatever CS_ON_TIMEOUT is, and the frame closes; a read answers the byte
received. The cause stays under Keep. Under Clear the data phase's success clears it, as R107, R115 and R116 write; that the
model follows them there, and not the sentence R124 derives from R107, is its reading (log 11). -/
def Obligations.LostCommandByteLetsTheDataByteLead : Prop :=
  ∀ (op : BusOp) (t3 t4 : Nat) (s : State), twoParts op = true →
    s.phase = .idle → s.configured = true → s.cs = .released →
    NeverReady Config.platform s →
    Answered Config.platform (sub Config.platform op 1) t3 t4
      (neverReadyEnd Config.platform (sub Config.platform op 0) s) →
    ∃ t u y, exec op.instr s = .next t ∧
      Sys2Proof.core.run (Config.platform.spinMax + (t3 + t4)) t = .next u ∧
      u.phase = .idle ∧ u.cs = .released ∧ u.resp = some (responseOf op y) ∧
      u.hist = s.hist ++ (match Config.platform.csOnTimeout with
          | .followHold => [.frameStart]
          | .release => [.frameStart, .frameEnd, .frameStart]
          | .keep => [.frameStart]) ++
        [.byteOut (sub Config.platform op 1).tx, .byteIn y, .frameEnd] ∧
      (framesOf u.hist).getLast? = some [(sub Config.platform op 1).tx] ∧
      u.diag = (match Config.platform.diagOnSuccess with
          | .keep => some .txPathFull
          | .clear => none)

/-- R123, R189: a register access whose command byte is pushed but whose transfer-complete does not come, and whose data
phase is answered: the transceiver sees the data byte behind the command byte in one frame under FollowHold and Keep, and
alone in a frame of its own under Release. -/
def Obligations.UnansweredCommandByteSplitsTheFrameUnderRelease : Prop :=
  ∀ (c : Config) (op : BusOp) (t1 t3 t4 : Nat) (s : State), twoParts op = true → s.cs = .released →
    NeverComplete c (sub c op 0) t1 s → Answered c (sub c op 1) t3 t4 (neverCompleteEnd c (sub c op 0) t1 s) →
    framesOf (procedureState c op.instr s).hist = framesOf s.hist ++
      match c.csOnTimeout with
      | .followHold => [[(sub c op 0).tx, (sub c op 1).tx]]
      | .release => [[(sub c op 0).tx], [(sub c op 1).tx]]
      | .keep => [[(sub c op 0).tx, (sub c op 1).tx]]

/-- R124, R155: when the data phase of a register access times out its cause is the one recorded, whatever the command
phase came to, and RDREG answers 0xFF. -/
def Obligations.DataPhaseTimeoutDecidesTheCause : Prop :=
  ∀ (c : Config) (a : RegAddr) (d : Byte) (s : State),
    (NeverReady c (transfer c { tx := cmd c.layout a .read, hold := true } s).2 →
      (procedureState c (.rdreg a) s).diag = some .txPathFull ∧
      (procedureState c (.rdreg a) s).resp = some (.byte 0xFF)) ∧
    (∀ t1, NeverComplete c (accessDataPhase c.dummyByte) t1
        (transfer c { tx := cmd c.layout a .read, hold := true } s).2 →
      (procedureState c (.rdreg a) s).diag = some .transferIncomplete ∧
      (procedureState c (.rdreg a) s).resp = some (.byte 0xFF)) ∧
    (NeverReady c (transfer c { tx := cmd c.layout a .write, hold := true } s).2 →
      (procedureState c (.wrreg a d) s).diag = some .txPathFull) ∧
    (∀ t1, NeverComplete c (accessDataPhase d) t1
        (transfer c { tx := cmd c.layout a .write, hold := true } s).2 →
      (procedureState c (.wrreg a d) s).diag = some .transferIncomplete)

/-- R115: one of three things happens in a transfer, and its result and end state follow: transmit-ready does not come;
it comes and transfer-complete does not; both come. -/
def Obligations.TransferHasThreeOutcomes : Prop :=
  ∀ (c : Config) (x : SubTransfer) (s : State),
    (NeverReady c s ∨ (∃ t1, NeverComplete c x t1 s) ∨ ∃ t1 t2, Answered c x t1 t2 s) ∧
    (NeverReady c s → transfer c x s = (0xFF, neverReadyEnd c x s)) ∧
    (∀ t1, NeverComplete c x t1 s → transfer c x s = (0xFF, neverCompleteEnd c x t1 s)) ∧
    (∀ t1 t2, Answered c x t1 t2 s → transfer c x s = (receivedByte x t1 t2 s, answeredEnd c x t1 t2 s))

/-- R116 against R115, R121, R122 and R140: for every configuration and environment, the steps from an accepted request
reach Idle with exactly the state, history and response of the procedure, in one step and one more for each flag sample
the procedure makes, and the block is not Idle before. -/
def Obligations.StepsReachTheProcedure : Prop :=
  ∀ (c : Config) (i : Instr) (s : State) (rest : List ReqWord),
    s.phase = .idle → s.requests = encode i :: rest → (needsBus i = true → s.configured = true) →
    ∃ t n, procedure c i { s with requests := rest } = .next t ∧ t.phase = .idle ∧
      n = 1 + (t.env.samples - s.env.samples) ∧ runAt c n s = .next t ∧
      ∀ m u, 0 < m → m < n → runAt c m s = .next u → u.phase ≠ .idle

/-- R111, R194: the samples of an operation are bounded, whatever the environment answers. -/
def Obligations.SamplesOfAnOperationAreBounded : Prop :=
  ∀ (c : Config) (s : State),
    (∀ x, (transfer c x s).2.env.samples ≤ s.env.samples + 2 * c.spinMax) ∧
    (∀ a, (procedureState c (.rdreg a) s).env.samples ≤ s.env.samples + 4 * c.spinMax) ∧
    (∀ a d, (procedureState c (.wrreg a d) s).env.samples ≤ s.env.samples + 4 * c.spinMax) ∧
    (procedureState c .rddiag s).env.samples = s.env.samples

/-- R111, R158, R194: from every state that meets the invariant the block is Idle again within 4 SPIN_MAX steps, whatever
the environment answers. -/
def Obligations.EveryOperationReturnsToIdle : Prop :=
  ∀ s : State, Inv Config.platform s →
    ∃ n t, n ≤ 4 * Config.platform.spinMax ∧ Sys2Proof.core.run n s = .next t ∧ t.phase = .idle

/-! ## Invariants and whole-machine rules -/

/-- Reset meets the invariant, and so does every boot with any requests (R183). -/
def Obligations.ResetMeetsTheInvariant : Prop :=
  (∀ c : Config, Inv c State.reset) ∧ ∀ (c : Config) (program : List ReqWord) (s : State), Inv c (boot program s)

/-- Every step keeps the invariant: the phase is one of R23, an operation in progress has a configured bus and an asserted
chip-select, the history is one the wire can carry with a frame open exactly while chip-select is asserted, and a response
stands in Idle only. -/
def Obligations.StepKeepsTheInvariant : Prop :=
  ∀ s t : State, Inv Config.platform s → step s = .next t → Inv Config.platform t

/-- R27: no operation writes the configured flag, only the platform does, and it changes nothing else. -/
def Obligations.NoStepWritesTheConfiguredFlag : Prop :=
  (∀ s t : State, step s = .next t → t.configured = s.configured) ∧
  (∀ s : State, configureBus s = { s with configured := true }) ∧
  (∀ (op : BusOp) (s : State), s.phase = .idle → s.configured = false → exec op.instr s = .refused .notConfigured)

/-- R35: the history is only ever added to, at most two events a step. -/
def Obligations.HistoryOnlyGrows : Prop :=
  ∀ s t : State, step s = .next t → ∃ es, t.hist = s.hist ++ es ∧ es.length ≤ 2

/-- R25: the recorded cause changes only at a timeout, to its cause, or at a success under Clear, to None. -/
def Obligations.OnlyTimeoutsAndClearingWriteTheCause : Prop :=
  ∀ s t : State, step s = .next t →
    t.diag = s.diag ∨
    (∃ op k n, s.phase = .waitTx op k n ∧ n + 1 = Config.platform.spinMax ∧ s.upcoming .txReady 0 = false ∧
      t.diag = some .txPathFull) ∨
    (∃ op k n, s.phase = .waitDone op k n ∧ n + 1 = Config.platform.spinMax ∧
      s.upcoming .xferComplete 0 = false ∧ t.diag = some .transferIncomplete) ∨
    (∃ op k n, s.phase = .waitDone op k n ∧ s.upcoming .xferComplete 0 = true ∧
      Config.platform.diagOnSuccess = .clear ∧ t.diag = none)

/-- R26, R157: a response is delivered exactly when an operation ends in Idle, once, and stands for one state (log 6). -/
def Obligations.ResponsesAreDeliveredOnce : Prop :=
  ∀ s t : State, step s = .next t →
    (t.resp = none ∧ t.reports = s.reports ∧ (s.phase ≠ .idle → t.phase ≠ .idle)) ∨
    (∃ r, t.resp = some r ∧ t.reports = s.reports ++ [r] ∧ t.phase = .idle)

/-- R59, R23: requests are taken one at a time, in the order offered, and in Idle only. -/
def Obligations.RequestsAreTakenInOrder : Prop :=
  ∀ s t : State, step s = .next t →
    t.requests = s.requests ∨ (s.phase = .idle ∧ ∃ w, s.requests = w :: t.requests)

/-- R117, R142: a success that receives 0xFF responds as a timeout does; the recorded cause tells them apart: a timeout
writes it, and a success leaves it under Keep and clears it under Clear. So under Clear a cause right after a transfer means
that it timed out, and a cause right after RDREG that it timed out in at least one phase. -/
def Obligations.OnlyTheCauseTellsSentinelFromData : Prop :=
  ∀ (c : Config) (s : State),
    (∀ x t1 t2, Answered c x t1 t2 s → receivedByte x t1 t2 s = 0xFF →
      (transfer c x s).1 = 0xFF ∧
      (c.diagOnSuccess = .keep → (transfer c x s).2.diag = s.diag) ∧
      (c.diagOnSuccess = .clear → (transfer c x s).2.diag = none)) ∧
    (∀ x, c.diagOnSuccess = .clear →
      ((transfer c x s).2.diag ≠ none ↔ ¬ ∃ t1 t2, Answered c x t1 t2 s)) ∧
    (∀ x, (¬ ∃ t1 t2, Answered c x t1 t2 s) → (transfer c x s).1 = 0xFF ∧ (transfer c x s).2.diag ≠ none) ∧
    (∀ a, c.diagOnSuccess = .clear → (procedureState c (.rdreg a) s).diag ≠ none →
      ¬ ∃ t1 t2 t3 t4, Answered c (sub c (.rdreg a) 0) t1 t2 s ∧
        Answered c (sub c (.rdreg a) 1) t3 t4 (answeredEnd c (sub c (.rdreg a) 0) t1 t2 s))

/-- R57, R120, R126: a register access begun with chip-select released and answered in both phases is, to the transceiver,
one new frame of two bytes; begun inside an open frame, its two bytes join that frame. -/
def Obligations.RegisterAccessIsOneFrame : Prop :=
  ∀ (c : Config) (op : BusOp) (t1 t2 t3 t4 : Nat) (s : State), twoParts op = true →
    Answered c (sub c op 0) t1 t2 s → Answered c (sub c op 1) t3 t4 (answeredEnd c (sub c op 0) t1 t2 s) →
    (s.cs = .released →
      framesOf (procedureState c op.instr s).hist = framesOf s.hist ++ [[(sub c op 0).tx, (sub c op 1).tx]]) ∧
    (s.cs = .asserted → ∀ earlier f, framesOf s.hist = earlier ++ [f] →
      framesOf (procedureState c op.instr s).hist = earlier ++ [f ++ [(sub c op 0).tx, (sub c op 1).tx]])

/-! ## The wire and the ports -/

/-- R54, R112: with eight pulses, bit 7 first, sampled at the trailing edge, each side takes off its line the byte the other
side put on it, and the clock is low at every sampling instant. -/
def Obligations.BytesCrossMostSignificantBitFirst : Prop :=
  ∀ tx rx : Byte,
    receivedByTransceiver (waveform tx rx) = tx ∧ receivedByPeripheral (waveform tx rx) = rx ∧
    (sampledInstants (waveform tx rx)).length = 8 ∧
    (∀ i : Nat, i < 8 → (sampledInstants (waveform tx rx))[i]? =
      some { sck := .low, mosi := tx.getLsbD (7 - i), miso := rx.getLsbD (7 - i), sampled := true })

/-- R34, R22: the ports of a state: ready exactly in Idle; the response data of TRANSFER, RDREG and RDDIAG; the pin of
chip-select at CS_ACTIVE_LEVEL exactly when asserted, once the bus is configured. Reading WRREG's response data is refused
(from R76 and U16: log 14), and so is looking at the pin before the bus is configured (from R181: log 15). -/
def Obligations.PortsShowTheState : Prop :=
  ∀ (c : Config) (s : State),
    ((outputs c s).reqReady = true ↔ s.phase = .idle) ∧
    ((outputs c s).respValid = true ↔ s.resp ≠ none) ∧
    (∀ v, s.resp = some (.byte v) → (outputs c s).respData = .ok v) ∧
    (s.resp = some .noValue → (outputs c s).respData = .error .noResponseData) ∧
    (outputs c s).diagCode = diagCode s.diag ∧
    (s.configured = true → ((outputs c s).csPin = .ok c.csActiveLevel ↔ s.cs = .asserted)) ∧
    (s.configured = false → (outputs c s).csPin = .error .lineUnspecified)

/-- R34, R104: the byte on per_txdata with its strobe is the byte that the step records as pushed, and there is none
exactly when the step pushes none. -/
def Obligations.TransmitDataPortIsTheBytePushed : Prop :=
  ∀ (s t : State) (v : Byte), step s = .next t →
    (perTxData Config.platform s = some v ↔ t.hist = s.hist ++ [.byteOut v])

/-! ## The cause at the end of a register access, and the clock -/

/-- The cause at the end of RDREG and WRREG, for every course of the two phases. A timeout of the data phase is recorded
whatever the command phase came to. With the data phase answered: an answered command phase leaves the cause under Keep and
clears it under Clear; a command phase that timed out leaves its cause under Keep, and under Clear the data phase's success
clears it. All of it is what R124 says but the last clause, where the model follows R107, R115 and R116 (log 11). -/
def Obligations.RegisterAccessEndsWithTheLastCause : Prop :=
  ∀ (c : Config) (op : BusOp) (s : State), twoParts op = true →
    (NeverReady c (transfer c (sub c op 0) s).2 → (procedureState c op.instr s).diag = some .txPathFull) ∧
    (∀ t3, NeverComplete c (sub c op 1) t3 (transfer c (sub c op 0) s).2 →
      (procedureState c op.instr s).diag = some .transferIncomplete) ∧
    (∀ t3 t4, Answered c (sub c op 1) t3 t4 (transfer c (sub c op 0) s).2 →
      (∀ t1 t2, Answered c (sub c op 0) t1 t2 s →
        (procedureState c op.instr s).diag = match c.diagOnSuccess with
          | .keep => s.diag
          | .clear => none) ∧
      (∀ cause, (NeverReady c s ∧ cause = .txPathFull) ∨
          ((∃ t1, NeverComplete c (sub c op 0) t1 s) ∧ cause = .transferIncomplete) →
        (procedureState c op.instr s).diag = match c.diagOnSuccess with
          | .keep => some cause
          | .clear => none))

/-- R33, R181: the clock is low while no byte is shifting, once the bus is configured. Looking at it before that is refused
(log 15). That a byte counts as shifting from its push until a byte is read is the model's inference from R60, R61 and R112
(log 27): outside the wait for transfer-complete a step that pushes no byte leaves a quiet wire quiet, and a transfer that is
answered leaves the clock low. -/
def Obligations.SerialClockIdlesLow : Prop :=
  (∀ s : State, s.configured = false → readSck s = .error .lineUnspecified) ∧
  (∀ s : State, s.configured = true → wireQuiet s.hist = true → readSck s = .ok .low) ∧
  (∀ s t : State, step s = .next t → wireQuiet s.hist = true →
    (∀ op k n, s.phase = .waitTx op k n → s.upcoming .txReady 0 = false) → (∀ op k n, s.phase ≠ .waitDone op k n) →
    wireQuiet t.hist = true) ∧
  (∀ (c : Config) (x : SubTransfer) (t1 t2 : Nat) (s : State), s.configured = true → wireQuiet s.hist = true →
    Answered c x t1 t2 s → readSck (transfer c x s).2 = .ok .low)
end

