-- ==== Sys2Proof/Laws/Decode.lean ====
section
/-! SUPPORT. The fields of a packed word, and the operations' fields. -/

namespace Sys2Proof

/-- A bit of a packed word, by its place (R70). -/
theorem pack_getLsbD (f : ReqFields) (j : Nat) :
    f.pack.getLsbD j =
      if j < 8 then f.d.getLsbD j
      else if j < 15 then f.a.getLsbD (j - 8)
      else if j < 16 then f.h
      else f.op.code.getLsbD (j - 16) := by
  simp only [ReqFields.pack, BitVec.getLsbD_append, BitVec.getLsbD_ofBool]
  by_cases h8 : j < 8
  · simp [h8]
  by_cases h15 : j < 15
  · simp [h8, h15, show j - 8 < 7 by omega]
  by_cases h16 : j < 16
  · simp [h8, h15, h16, show ¬ (j - 8 < 7) by omega, show j - 8 - 7 = 0 by omega]
  · simp [h8, h15, h16, show ¬ (j - 8 < 7) by omega, show ¬ (j - 8 - 7 < 1) by omega,
      show j - 8 - 7 - 1 = j - 16 by omega]

theorem pack_op (f : ReqFields) : ReqWord.op f.pack = f.op := by
  obtain ⟨op, _, _, _⟩ := f
  cases op <;> simp only [ReqWord.op, pack_getLsbD, OpField.code] <;> rfl

theorem pack_h (f : ReqFields) : ReqWord.h f.pack = f.h := by
  simp only [ReqWord.h, pack_getLsbD]
  rfl

theorem pack_a (f : ReqFields) : ReqWord.a f.pack = f.a := by
  apply BitVec.eq_of_getLsbD_eq
  intro i hi
  simp [ReqWord.a, pack_getLsbD, hi, show 8 + i < 15 by omega]

theorem pack_d (f : ReqFields) : ReqWord.d f.pack = f.d := by
  apply BitVec.eq_of_getLsbD_eq
  intro i hi
  simp [ReqWord.d, pack_getLsbD, hi]

/-- The operation of decoded fields is the one whose fields they are. -/
theorem fields_of_decode {f : ReqFields} {i : Instr} (h : f.decode = .ok i) : i.fields = f := by
  obtain ⟨op, hh, a, d⟩ := f
  cases op <;> cases hh <;> by_cases ha : a = 0#7 <;> by_cases hd : d = 0#8 <;>
    simp [ReqFields.decode, ha, hd] at h <;> subst h <;> simp [Instr.fields, ha, hd]

/-- Fields decode exactly when they are well formed. -/
theorem decode_ok_iff_wellFormed (f : ReqFields) : (∃ i, f.decode = .ok i) ↔ f.wellFormed = true := by
  obtain ⟨op, hh, a, d⟩ := f
  cases op <;> cases hh <;> simp [ReqFields.decode, ReqFields.wellFormed] <;>
    by_cases ha : a = 0#7 <;> by_cases hd : d = 0#8 <;> simp [ha, hd]

/-- Every operation's fields decode to it. -/
theorem decode_fields (i : Instr) : i.fields.decode = .ok i := by
  cases i <;> simp [Instr.fields, ReqFields.decode]

end Sys2Proof
end

