-- ==== Sys2Proof/Laws/State.lean ====
section
/-! SUPPORT. One lemma per field per update of the state, each true by definition, so that no later proof unfolds an
update. -/

namespace Sys2Proof.Machine

variable (s : State)


/-! ## record -/

@[simp] theorem record_cs (e : BusEvent) : (record e s).cs = s.cs := rfl
@[simp] theorem record_phase (e : BusEvent) : (record e s).phase = s.phase := rfl
@[simp] theorem record_diag (e : BusEvent) : (record e s).diag = s.diag := rfl
@[simp] theorem record_configured (e : BusEvent) : (record e s).configured = s.configured := rfl
@[simp] theorem record_hist (e : BusEvent) : (record e s).hist = s.hist ++ [e] := rfl
@[simp] theorem record_requests (e : BusEvent) : (record e s).requests = s.requests := rfl
@[simp] theorem record_resp (e : BusEvent) : (record e s).resp = s.resp := rfl
@[simp] theorem record_reports (e : BusEvent) : (record e s).reports = s.reports := rfl
@[simp] theorem record_env (e : BusEvent) : (record e s).env = s.env := rfl

/-! ## setPhase -/

@[simp] theorem setPhase_cs (p : Phase) : (setPhase p s).cs = s.cs := rfl
@[simp] theorem setPhase_phase (p : Phase) : (setPhase p s).phase = p := rfl
@[simp] theorem setPhase_diag (p : Phase) : (setPhase p s).diag = s.diag := rfl
@[simp] theorem setPhase_configured (p : Phase) : (setPhase p s).configured = s.configured := rfl
@[simp] theorem setPhase_hist (p : Phase) : (setPhase p s).hist = s.hist := rfl
@[simp] theorem setPhase_requests (p : Phase) : (setPhase p s).requests = s.requests := rfl
@[simp] theorem setPhase_resp (p : Phase) : (setPhase p s).resp = s.resp := rfl
@[simp] theorem setPhase_reports (p : Phase) : (setPhase p s).reports = s.reports := rfl
@[simp] theorem setPhase_env (p : Phase) : (setPhase p s).env = s.env := rfl

/-! ## respond -/

@[simp] theorem respond_cs (r : Response) : (respond r s).cs = s.cs := rfl
@[simp] theorem respond_phase (r : Response) : (respond r s).phase = .idle := rfl
@[simp] theorem respond_diag (r : Response) : (respond r s).diag = s.diag := rfl
@[simp] theorem respond_configured (r : Response) : (respond r s).configured = s.configured := rfl
@[simp] theorem respond_hist (r : Response) : (respond r s).hist = s.hist := rfl
@[simp] theorem respond_requests (r : Response) : (respond r s).requests = s.requests := rfl
@[simp] theorem respond_resp (r : Response) : (respond r s).resp = some r := rfl
@[simp] theorem respond_reports (r : Response) : (respond r s).reports = s.reports ++ [r] := rfl
@[simp] theorem respond_env (r : Response) : (respond r s).env = s.env := rfl

/-! ## writeTxData -/

@[simp] theorem writeTxData_cs (v : Byte) : (writeTxData v s).cs = s.cs := rfl
@[simp] theorem writeTxData_phase (v : Byte) : (writeTxData v s).phase = s.phase := rfl
@[simp] theorem writeTxData_diag (v : Byte) : (writeTxData v s).diag = s.diag := rfl
@[simp] theorem writeTxData_configured (v : Byte) : (writeTxData v s).configured = s.configured := rfl
@[simp] theorem writeTxData_hist (v : Byte) : (writeTxData v s).hist = s.hist ++ [.byteOut v] := rfl
@[simp] theorem writeTxData_requests (v : Byte) : (writeTxData v s).requests = s.requests := rfl
@[simp] theorem writeTxData_resp (v : Byte) : (writeTxData v s).resp = s.resp := rfl
@[simp] theorem writeTxData_reports (v : Byte) : (writeTxData v s).reports = s.reports := rfl
@[simp] theorem writeTxData_env (v : Byte) : (writeTxData v s).env = s.env := rfl

/-! ## sample -/

@[simp] theorem sample_cs (f : Flag) : (sample f s).2.cs = s.cs := rfl
@[simp] theorem sample_phase (f : Flag) : (sample f s).2.phase = s.phase := rfl
@[simp] theorem sample_diag (f : Flag) : (sample f s).2.diag = s.diag := rfl
@[simp] theorem sample_configured (f : Flag) : (sample f s).2.configured = s.configured := rfl
@[simp] theorem sample_hist (f : Flag) : (sample f s).2.hist = s.hist := rfl
@[simp] theorem sample_requests (f : Flag) : (sample f s).2.requests = s.requests := rfl
@[simp] theorem sample_resp (f : Flag) : (sample f s).2.resp = s.resp := rfl
@[simp] theorem sample_reports (f : Flag) : (sample f s).2.reports = s.reports := rfl
@[simp] theorem sample_env (f : Flag) : (sample f s).2.env = s.env.afterSample f := rfl

/-! ## readRxData -/

@[simp] theorem readRxData_cs : (readRxData s).2.cs = s.cs := rfl
@[simp] theorem readRxData_phase : (readRxData s).2.phase = s.phase := rfl
@[simp] theorem readRxData_diag : (readRxData s).2.diag = s.diag := rfl
@[simp] theorem readRxData_configured : (readRxData s).2.configured = s.configured := rfl
@[simp] theorem readRxData_hist : (readRxData s).2.hist = s.hist ++ [.byteIn s.upcomingByte] := rfl
@[simp] theorem readRxData_requests : (readRxData s).2.requests = s.requests := rfl
@[simp] theorem readRxData_resp : (readRxData s).2.resp = s.resp := rfl
@[simp] theorem readRxData_reports : (readRxData s).2.reports = s.reports := rfl
@[simp] theorem readRxData_env : (readRxData s).2.env = s.env.afterRead := rfl

/-! ## beginStep -/

@[simp] theorem beginStep_cs : (beginStep s).cs = s.cs := rfl
@[simp] theorem beginStep_phase : (beginStep s).phase = s.phase := rfl
@[simp] theorem beginStep_diag : (beginStep s).diag = s.diag := rfl
@[simp] theorem beginStep_configured : (beginStep s).configured = s.configured := rfl
@[simp] theorem beginStep_hist : (beginStep s).hist = s.hist := rfl
@[simp] theorem beginStep_requests : (beginStep s).requests = s.requests := rfl
@[simp] theorem beginStep_resp : (beginStep s).resp = none := rfl
@[simp] theorem beginStep_reports : (beginStep s).reports = s.reports := rfl
@[simp] theorem beginStep_env : (beginStep s).env = s.env := rfl

/-! ## offer -/

@[simp] theorem offer_cs (w : ReqWord) : (offer w s).cs = s.cs := rfl
@[simp] theorem offer_phase (w : ReqWord) : (offer w s).phase = s.phase := rfl
@[simp] theorem offer_diag (w : ReqWord) : (offer w s).diag = s.diag := rfl
@[simp] theorem offer_configured (w : ReqWord) : (offer w s).configured = s.configured := rfl
@[simp] theorem offer_hist (w : ReqWord) : (offer w s).hist = s.hist := rfl
@[simp] theorem offer_requests (w : ReqWord) : (offer w s).requests = w :: s.requests := rfl
@[simp] theorem offer_resp (w : ReqWord) : (offer w s).resp = s.resp := rfl
@[simp] theorem offer_reports (w : ReqWord) : (offer w s).reports = s.reports := rfl
@[simp] theorem offer_env (w : ReqWord) : (offer w s).env = s.env := rfl

/-! ## configureBus -/

@[simp] theorem configureBus_cs : (configureBus s).cs = s.cs := rfl
@[simp] theorem configureBus_phase : (configureBus s).phase = s.phase := rfl
@[simp] theorem configureBus_diag : (configureBus s).diag = s.diag := rfl
@[simp] theorem configureBus_configured : (configureBus s).configured = true := rfl
@[simp] theorem configureBus_hist : (configureBus s).hist = s.hist := rfl
@[simp] theorem configureBus_requests : (configureBus s).requests = s.requests := rfl
@[simp] theorem configureBus_resp : (configureBus s).resp = s.resp := rfl
@[simp] theorem configureBus_reports : (configureBus s).reports = s.reports := rfl
@[simp] theorem configureBus_env : (configureBus s).env = s.env := rfl

/-! ## powerCycle -/

@[simp] theorem powerCycle_cs : (powerCycle s).cs = .released := rfl
@[simp] theorem powerCycle_phase : (powerCycle s).phase = .idle := rfl
@[simp] theorem powerCycle_diag : (powerCycle s).diag = none := rfl
@[simp] theorem powerCycle_configured : (powerCycle s).configured = false := rfl
@[simp] theorem powerCycle_hist : (powerCycle s).hist = [] := rfl
@[simp] theorem powerCycle_requests : (powerCycle s).requests = [] := rfl
@[simp] theorem powerCycle_resp : (powerCycle s).resp = none := rfl
@[simp] theorem powerCycle_reports : (powerCycle s).reports = [] := rfl
@[simp] theorem powerCycle_env : (powerCycle s).env = s.env := rfl

/-! ## The values drawn -/

@[simp] theorem sample_value (f : Flag) : (sample f s).1 = s.upcoming f 0 := rfl
@[simp] theorem readRxData_value : (readRxData s).1 = s.upcomingByte := rfl

/-! ## The environment's counters -/

@[simp] theorem afterSample_samples (e : Env) (f : Flag) : (e.afterSample f).samples = e.samples + 1 := by
  cases f <;> rfl
@[simp] theorem afterSample_reads (e : Env) (f : Flag) : (e.afterSample f).reads = e.reads := by
  cases f <;> rfl
@[simp] theorem afterSample_rxData (e : Env) (f : Flag) : (e.afterSample f).rxData = e.rxData := by
  cases f <;> rfl
@[simp] theorem afterSample_answers (e : Env) (f : Flag) :
    (e.afterSample f).answers f = (e.answers f).tail := by
  cases f <;> rfl
@[simp] theorem afterRead_samples (e : Env) : e.afterRead.samples = e.samples := rfl
@[simp] theorem afterRead_reads (e : Env) : e.afterRead.reads = e.reads + 1 := rfl

end Sys2Proof.Machine
end

