-- ==== Sys2Proof/Laws/Ops.lean ====
section
/-! SUPPORT. What each shared operation can do, said once: closed forms of the primitives and of the two ends of a
transfer, and the cases of each sequencer action. -/

namespace Sys2Proof.Machine

open Sys2Proof.Safety

/-! ## Chip-select -/

/-- `CsAssert()` in one line (R102). -/
theorem csAssert_eq (s : State) :
    csAssert s = { s with cs := .asserted, hist := s.hist ++ frameOpening s.cs } := by
  obtain ⟨cs, _, _, _, _, _, _, _, _⟩ := s
  cases cs <;> simp [csAssert, record, frameOpening]

/-- `CsRelease()` in one line. -/
theorem csRelease_eq (s : State) :
    csRelease s = { s with cs := .released, hist := s.hist ++ frameClosing s.cs } := by
  obtain ⟨cs, _, _, _, _, _, _, _, _⟩ := s
  cases cs <;> simp [csRelease, record, frameClosing]

/-- Releasing unless held, in one line (R107). -/
theorem releaseUnlessHeld_eq (hold : Bool) (s : State) :
    releaseUnlessHeld hold s =
      { s with
        cs := if hold then s.cs else .released
        hist := s.hist ++ if hold then [] else frameClosing s.cs } := by
  cases hold <;> simp [releaseUnlessHeld, csRelease_eq]

/-! ## The data phase of a register access -/

@[simp] theorem accessDataPhase_tx (v : Byte) : (accessDataPhase v).tx = v := rfl
@[simp] theorem accessDataPhase_hold (v : Byte) : (accessDataPhase v).hold = false := rfl

/-! ## The two ends of a transfer -/

/-- Under Keep a success changes no cause (R107). -/
theorem diagAfterSuccess_keep {c : Config} (h : c.diagOnSuccess = .keep) (d : Option Cause) :
    diagAfterSuccess c d = d := by
  simp [diagAfterSuccess, h]

/-- Under Clear a success clears the cause (R107). -/
theorem diagAfterSuccess_clear {c : Config} (h : c.diagOnSuccess = .clear) (d : Option Cause) :
    diagAfterSuccess c d = none := by
  simp [diagAfterSuccess, h]

/-- With no cause recorded a success leaves none. -/
@[simp] theorem diagAfterSuccess_none (c : Config) : diagAfterSuccess c none = none := by
  cases h : c.diagOnSuccess
  · simp [diagAfterSuccess_keep h]
  · simp [diagAfterSuccess_clear h]

/-- The normal end in one line (R107). -/
theorem successExit_eq (c : Config) (x : SubTransfer) (s : State) :
    successExit c x s =
      { s with
        cs := if x.hold then s.cs else .released
        hist := s.hist ++ if x.hold then [] else frameClosing s.cs
        diag := diagAfterSuccess c s.diag } := by
  simp [successExit, releaseUnlessHeld_eq]

/-- The timeout exit in one line (R108). -/
theorem timeoutExit_eq (c : Config) (cause : Cause) (hold : Bool) (s : State) :
    timeoutExit c cause hold s =
      { s with
        cs := if timeoutReleases c hold then .released else s.cs
        hist := s.hist ++ if timeoutReleases c hold then frameClosing s.cs else []
        diag := some cause } := by
  cases h : c.csOnTimeout <;> cases hold <;>
    simp [timeoutExit, csOnTimeout, timeoutReleases, h, releaseUnlessHeld, csRelease_eq, diagAfterTimeout]

/-! ## What the next part of an operation is -/

theorem nextPart_of_next {op : BusOp} {k : Fin 2} (h : hasNext op k = true) (r : Byte) (s : State) :
    nextPart op k r s = setPhase (.waitTx op 1 0) (csAssert s) := by
  simp [nextPart, h]

theorem nextPart_of_last {op : BusOp} {k : Fin 2} (h : hasNext op k = false) (r : Byte) (s : State) :
    nextPart op k r s = respond (responseOf op r) s := by
  simp [nextPart, h]

/-- An operation's end delivers a response in Idle; otherwise its second part begins, with chip-select asserted. -/
theorem nextPart_cases (op : BusOp) (k : Fin 2) (r : Byte) (s : State) :
    (hasNext op k = true ∧ nextPart op k r s = setPhase (.waitTx op 1 0) (csAssert s)) ∨
    (hasNext op k = false ∧ nextPart op k r s = respond (responseOf op r) s) := by
  cases h : hasNext op k
  · exact .inr ⟨rfl, nextPart_of_last h r s⟩
  · exact .inl ⟨rfl, nextPart_of_next h r s⟩

/-- Whatever it returns, an ended sub-transfer leads to the second one or to Idle with a response. -/
theorem nextPart_partEnded (op : BusOp) (k : Fin 2) (r : Byte) (s : State) : PartEnded op k (nextPart op k r s) := by
  obtain ⟨h, h'⟩ | ⟨h, h'⟩ := nextPart_cases op k r s <;> rw [h'] <;> simp [PartEnded, h]

/-! ## The sequencer's actions, one equation a case (R116) -/

theorem sampleTx_ready {s : State} (c : Config) (op : BusOp) (k : Fin 2) (n : Nat)
    (h : s.upcoming .txReady 0 = true) :
    sampleTx c op k n s =
      setPhase (.waitDone op k 0) (writeTxData (sub c op k).tx (sample .txReady s).2) := by
  simp [sampleTx, h]

theorem sampleTx_again {c : Config} {s : State} (op : BusOp) (k : Fin 2) {n : Nat}
    (h : s.upcoming .txReady 0 = false) (hn : n + 1 ≠ c.spinMax) :
    sampleTx c op k n s = setPhase (.waitTx op k (n + 1)) (sample .txReady s).2 := by
  simp [sampleTx, h, hn]

theorem sampleTx_timeout {c : Config} {s : State} (op : BusOp) (k : Fin 2) {n : Nat}
    (h : s.upcoming .txReady 0 = false) (hn : n + 1 = c.spinMax) :
    sampleTx c op k n s =
      nextPart op k Config.sentinel (timeoutExit c .txPathFull (sub c op k).hold (sample .txReady s).2) := by
  simp [sampleTx, h, hn]

theorem sampleDone_complete {s : State} (c : Config) (op : BusOp) (k : Fin 2) (n : Nat)
    (h : s.upcoming .xferComplete 0 = true) :
    sampleDone c op k n s =
      nextPart op k (sample .xferComplete s).2.upcomingByte
        (successExit c (sub c op k) (readRxData (sample .xferComplete s).2).2) := by
  simp [sampleDone, h]

theorem sampleDone_again {c : Config} {s : State} (op : BusOp) (k : Fin 2) {n : Nat}
    (h : s.upcoming .xferComplete 0 = false) (hn : n + 1 ≠ c.spinMax) :
    sampleDone c op k n s = setPhase (.waitDone op k (n + 1)) (sample .xferComplete s).2 := by
  simp [sampleDone, h, hn]

theorem sampleDone_timeout {c : Config} {s : State} (op : BusOp) (k : Fin 2) {n : Nat}
    (h : s.upcoming .xferComplete 0 = false) (hn : n + 1 = c.spinMax) :
    sampleDone c op k n s =
      nextPart op k Config.sentinel
        (timeoutExit c .transferIncomplete (sub c op k).hold (sample .xferComplete s).2) := by
  simp [sampleDone, h, hn]

/-- Everything a sample of transmit-ready can do. -/
theorem sampleTx_cases (c : Config) (op : BusOp) (k : Fin 2) (n : Nat) (s : State) :
    sampleTx c op k n s =
        setPhase (.waitDone op k 0) (writeTxData (sub c op k).tx (sample .txReady s).2) ∨
    (n + 1 ≠ c.spinMax ∧ sampleTx c op k n s = setPhase (.waitTx op k (n + 1)) (sample .txReady s).2) ∨
    (n + 1 = c.spinMax ∧ sampleTx c op k n s =
      nextPart op k Config.sentinel (timeoutExit c .txPathFull (sub c op k).hold (sample .txReady s).2)) := by
  cases h : s.upcoming .txReady 0
  · by_cases hn : n + 1 = c.spinMax
    · exact .inr (.inr ⟨hn, sampleTx_timeout op k h hn⟩)
    · exact .inr (.inl ⟨hn, sampleTx_again op k h hn⟩)
  · exact .inl (sampleTx_ready c op k n h)

/-- Everything a sample of transfer-complete can do. -/
theorem sampleDone_cases (c : Config) (op : BusOp) (k : Fin 2) (n : Nat) (s : State) :
    sampleDone c op k n s =
        nextPart op k (sample .xferComplete s).2.upcomingByte
          (successExit c (sub c op k) (readRxData (sample .xferComplete s).2).2) ∨
    (n + 1 ≠ c.spinMax ∧
      sampleDone c op k n s = setPhase (.waitDone op k (n + 1)) (sample .xferComplete s).2) ∨
    (n + 1 = c.spinMax ∧ sampleDone c op k n s =
      nextPart op k Config.sentinel
        (timeoutExit c .transferIncomplete (sub c op k).hold (sample .xferComplete s).2)) := by
  cases h : s.upcoming .xferComplete 0
  · by_cases hn : n + 1 = c.spinMax
    · exact .inr (.inr ⟨hn, sampleDone_timeout op k h hn⟩)
    · exact .inr (.inl ⟨hn, sampleDone_again op k h hn⟩)
  · exact .inl (sampleDone_complete c op k n h)

/-- Everything one action of a bus operation can do when it answers a next state. -/
theorem busOp_cases {c : Config} {op : BusOp} {s t : State} (h : busOp c op s = .next t) :
    (s.phase = .idle ∧ s.configured = true ∧ t = accept op s) ∨
    (∃ k n, s.phase = .waitTx op k n ∧ t = sampleTx c op k n s) ∨
    (∃ k n, s.phase = .waitDone op k n ∧ t = sampleDone c op k n s) := by
  unfold busOp at h
  split at h
  · split at h
    · simp_all
    · cases h
  · next op' k n hp =>
    split at h
    · next ho => cases h; exact .inr (.inl ⟨k, n, ho ▸ hp, rfl⟩)
    · cases h
  · next op' k n hp =>
    split at h
    · next ho => cases h; exact .inr (.inr ⟨k, n, ho ▸ hp, rfl⟩)
    · cases h

theorem busOp_idle {c : Config} {s : State} (op : BusOp) (hp : s.phase = .idle) (hc : s.configured = true) :
    busOp c op s = .next (accept op s) := by
  simp [busOp, hp, hc]

theorem busOp_waitTx {s : State} (c : Config) {op : BusOp} {k : Fin 2} {n : Nat} (hp : s.phase = .waitTx op k n) :
    busOp c op s = .next (sampleTx c op k n s) := by
  simp [busOp, hp]

theorem busOp_waitDone {s : State} (c : Config) {op : BusOp} {k : Fin 2} {n : Nat}
    (hp : s.phase = .waitDone op k n) : busOp c op s = .next (sampleDone c op k n s) := by
  simp [busOp, hp]

end Sys2Proof.Machine
end

