-- ==== Sys2Proof/Laws/Step.lean ====
section
/-! SUPPORT. What a step can do, said once; the parametric machine is the machine at the platform's configuration; and
composing runs. -/

namespace Sys2Proof.Machine

/-! ## The machine is the parametric machine at its own configuration -/

theorem exec_eq_execAt (i : Instr) (s : State) : exec i s = execAt Config.platform i s := by
  cases i <;> rfl

theorem step_eq_stepAt (s : State) : step s = stepAt Config.platform s := by
  unfold step stepAt
  split <;> simp_all [exec_eq_execAt]

/-- The meaning of the instruction an operation in progress is. -/
@[simp] theorem execAt_instr (c : Config) (op : BusOp) (s : State) : execAt c op.instr s = busOp c op s := by
  cases op <;> rfl

@[simp] theorem execAt_rddiag (c : Config) (s : State) : execAt c .rddiag s = rddiag s := rfl

/-- Every instruction is RDDIAG or a bus operation. -/
theorem instr_cases (i : Instr) : i = .rddiag ∨ ∃ op : BusOp, i = op.instr := by
  cases i with
  | transferR d => exact .inr ⟨.transferR d, rfl⟩
  | transferH d => exact .inr ⟨.transferH d, rfl⟩
  | rdreg a => exact .inr ⟨.rdreg a, rfl⟩
  | wrreg a d => exact .inr ⟨.wrreg a d, rfl⟩
  | rddiag => exact .inl rfl

/-- RDDIAG answers a next state in Idle only. -/
theorem rddiag_cases {s t : State} (h : rddiag s = .next t) :
    s.phase = .idle ∧ t = respond (diagResponse s) s := by
  unfold rddiag at h
  split at h
  · next hp => cases h; exact ⟨hp, rfl⟩
  · cases h
  · cases h

/-! ## Turns and steps -/

theorem stepAt_wait {c : Config} {s : State} (hp : s.phase = .idle) (hr : s.requests = []) :
    stepAt c s = .next (beginStep s) := by
  simp [stepAt, turn, hp, hr]

theorem stepAt_offered {c : Config} {s : State} {w : ReqWord} {rest : List ReqWord} {i : Instr}
    (hp : s.phase = .idle) (hr : s.requests = w :: rest) (hd : decode w = .ok i) :
    stepAt c s = execAt c i { beginStep s with requests := rest } := by
  simp [stepAt, turn, hp, hr, hd]

theorem stepAt_reserved {c : Config} {s : State} {w : ReqWord} {rest : List ReqWord} {e : ReservedField}
    (hp : s.phase = .idle) (hr : s.requests = w :: rest) (hd : decode w = .error e) :
    stepAt c s = .refused (.reserved w e) := by
  simp [stepAt, turn, hp, hr, hd]

theorem stepAt_waitTx {c : Config} {s : State} {op : BusOp} {k : Fin 2} {n : Nat} (hp : s.phase = .waitTx op k n) :
    stepAt c s = .next (sampleTx c op k n (beginStep s)) := by
  simp [stepAt, turn, hp, busOp]

theorem stepAt_waitDone {c : Config} {s : State} {op : BusOp} {k : Fin 2} {n : Nat}
    (hp : s.phase = .waitDone op k n) : stepAt c s = .next (sampleDone c op k n (beginStep s)) := by
  simp [stepAt, turn, hp, busOp]

/-- Everything a step can do when it answers a next state. -/
theorem stepAt_cases {c : Config} {s t : State} (h : stepAt c s = .next t) :
    (s.phase = .idle ∧ s.requests = [] ∧ t = beginStep s) ∨
    (∃ w rest, s.phase = .idle ∧ s.requests = w :: rest ∧
      ((decode w = .ok .rddiag ∧
          t = respond (diagResponse s) { beginStep s with requests := rest }) ∨
        ∃ op : BusOp, decode w = .ok op.instr ∧ s.configured = true ∧
          t = accept op { beginStep s with requests := rest })) ∨
    (∃ op k n, s.phase = .waitTx op k n ∧ t = sampleTx c op k n (beginStep s)) ∨
    (∃ op k n, s.phase = .waitDone op k n ∧ t = sampleDone c op k n (beginStep s)) := by
  cases hp : s.phase with
  | idle =>
    cases hr : s.requests with
    | nil =>
      rw [stepAt_wait hp hr] at h
      cases h
      exact .inl ⟨rfl, rfl, rfl⟩
    | cons w rest =>
      refine .inr (.inl ⟨w, rest, rfl, rfl, ?_⟩)
      cases hd : decode w with
      | error e => rw [stepAt_reserved hp hr hd] at h; cases h
      | ok i =>
        rw [stepAt_offered hp hr hd] at h
        obtain rfl | ⟨op, rfl⟩ := instr_cases i
        · exact .inl ⟨rfl, (rddiag_cases h).2⟩
        · rw [execAt_instr] at h
          obtain ⟨_, hc, ht⟩ | ⟨k, n, hk, _⟩ | ⟨k, n, hk, _⟩ := busOp_cases h
          · exact .inr ⟨op, rfl, hc, ht⟩
          · simp [hp] at hk
          · simp [hp] at hk
  | waitTx op k n =>
    rw [stepAt_waitTx hp] at h
    cases h
    exact .inr (.inr (.inl ⟨op, k, n, rfl, rfl⟩))
  | waitDone op k n =>
    rw [stepAt_waitDone hp] at h
    cases h
    exact .inr (.inr (.inr ⟨op, k, n, rfl, rfl⟩))

/-! ## Runs -/

@[simp] theorem runAt_zero (c : Config) (s : State) : runAt c 0 s = .next s := rfl

theorem runAt_succ {c : Config} {s t : State} (h : stepAt c s = .next t) (n : Nat) :
    runAt c (n + 1) s = runAt c n t := by
  have h' : (coreAt c).step s = .next t := h
  simp only [runAt, Host.Core.run, h']
  rfl

theorem runAt_refused {c : Config} {s : State} {r : Refusal} (h : stepAt c s = .refused r) (n : Nat) :
    runAt c (n + 1) s = .refused r := by
  have h' : (coreAt c).step s = .refused r := h
  simp only [runAt, Host.Core.run, h']
  rfl

/-- Runs compose. -/
theorem runAt_add {c : Config} {n : Nat} {s t : State} (h : runAt c n s = .next t) (m : Nat) :
    runAt c (n + m) s = runAt c m t := by
  induction n generalizing s with
  | zero => cases h; simp
  | succ n ih =>
    rw [Nat.add_right_comm]
    cases hs : stepAt c s with
    | next u =>
      rw [runAt_succ hs] at h ⊢
      exact ih h
    | fault r => exact nomatch r
    | refused r =>
      rw [runAt_refused hs] at h
      cases h

/-- The host's run of the machine is the parametric run at the platform's configuration. -/
theorem core_run_eq (n : Nat) (s : State) : core.run n s = runAt Config.platform n s := by
  induction n generalizing s with
  | zero => rfl
  | succ n ih =>
    have hs : core.step s = stepAt Config.platform s := step_eq_stepAt s
    simp only [Host.Core.run, hs]
    cases h : stepAt Config.platform s with
    | next t => rw [runAt_succ h]; exact ih t
    | fault r => exact nomatch r
    | refused r => rw [runAt_refused h]; rfl

end Sys2Proof.Machine
end

