-- ==== Sys2Proof/Laws/Frame.lean ====
section
/-! SUPPORT. What the sequencer's actions leave alone, and what they add: one lemma a field, for the next part of an
operation, for the two sampling actions, and for a step. -/

namespace Sys2Proof.Machine

open Sys2Proof.Safety

/-! ## The next part of an operation -/

@[simp] theorem nextPart_configured (op : BusOp) (k : Fin 2) (r : Byte) (s : State) :
    (nextPart op k r s).configured = s.configured := by
  unfold nextPart; split <;> simp [csAssert_eq]

@[simp] theorem nextPart_requests (op : BusOp) (k : Fin 2) (r : Byte) (s : State) :
    (nextPart op k r s).requests = s.requests := by
  unfold nextPart; split <;> simp [csAssert_eq]

@[simp] theorem nextPart_diag (op : BusOp) (k : Fin 2) (r : Byte) (s : State) :
    (nextPart op k r s).diag = s.diag := by
  unfold nextPart; split <;> simp [csAssert_eq]

@[simp] theorem nextPart_env (op : BusOp) (k : Fin 2) (r : Byte) (s : State) :
    (nextPart op k r s).env = s.env := by
  unfold nextPart; split <;> simp [csAssert_eq]

theorem nextPart_hist (op : BusOp) (k : Fin 2) (r : Byte) (s : State) :
    (nextPart op k r s).hist = s.hist ++ if hasNext op k then frameOpening s.cs else [] := by
  unfold nextPart; split <;> simp [csAssert_eq]

/-- The next part delivers nothing and is not Idle, or delivers one response in Idle. -/
theorem nextPart_response (op : BusOp) (k : Fin 2) (r : Byte) (s : State) :
    ((nextPart op k r s).resp = s.resp ∧ (nextPart op k r s).reports = s.reports ∧
      (nextPart op k r s).phase ≠ .idle) ∨
    ∃ x, (nextPart op k r s).resp = some x ∧ (nextPart op k r s).reports = s.reports ++ [x] ∧
      (nextPart op k r s).phase = .idle := by
  unfold nextPart; split <;> simp [csAssert_eq]

/-! ## A sub-transfer that has a next one -/

/-- A part with a next one is the first of two, and holds. -/
theorem hasNext_spec (c : Config) {op : BusOp} {k : Fin 2} (h : hasNext op k = true) :
    k = 0 ∧ (sub c op k).hold = true ∧ twoParts op = true := by
  cases op <;> simp [hasNext] at h <;> simp [h, sub, twoParts]

theorem hasNext_zero (op : BusOp) : hasNext op 0 = twoParts op := by
  cases op <;> rfl

theorem hasNext_one (op : BusOp) : hasNext op 1 = false := by
  cases op <;> rfl

/-! ## The sampling actions -/

theorem sampleTx_configured (c : Config) (op : BusOp) (k : Fin 2) (n : Nat) (s : State) :
    (sampleTx c op k n s).configured = s.configured := by
  obtain h | ⟨_, h⟩ | ⟨_, h⟩ := sampleTx_cases c op k n s <;> simp [h, timeoutExit_eq]

theorem sampleDone_configured (c : Config) (op : BusOp) (k : Fin 2) (n : Nat) (s : State) :
    (sampleDone c op k n s).configured = s.configured := by
  obtain h | ⟨_, h⟩ | ⟨_, h⟩ := sampleDone_cases c op k n s <;> simp [h, timeoutExit_eq, successExit_eq]

theorem sampleTx_requests (c : Config) (op : BusOp) (k : Fin 2) (n : Nat) (s : State) :
    (sampleTx c op k n s).requests = s.requests := by
  obtain h | ⟨_, h⟩ | ⟨_, h⟩ := sampleTx_cases c op k n s <;> simp [h, timeoutExit_eq]

theorem sampleDone_requests (c : Config) (op : BusOp) (k : Fin 2) (n : Nat) (s : State) :
    (sampleDone c op k n s).requests = s.requests := by
  obtain h | ⟨_, h⟩ | ⟨_, h⟩ := sampleDone_cases c op k n s <;> simp [h, timeoutExit_eq, successExit_eq]

/-- Each sampling action makes one sample. -/
theorem sampleTx_samples (c : Config) (op : BusOp) (k : Fin 2) (n : Nat) (s : State) :
    (sampleTx c op k n s).env.samples = s.env.samples + 1 := by
  obtain h | ⟨_, h⟩ | ⟨_, h⟩ := sampleTx_cases c op k n s <;> simp [h, timeoutExit_eq]

theorem sampleDone_samples (c : Config) (op : BusOp) (k : Fin 2) (n : Nat) (s : State) :
    (sampleDone c op k n s).env.samples = s.env.samples + 1 := by
  obtain h | ⟨_, h⟩ | ⟨_, h⟩ := sampleDone_cases c op k n s <;> simp [h, timeoutExit_eq, successExit_eq]

theorem sampleTx_response (c : Config) (op : BusOp) (k : Fin 2) (n : Nat) (s : State) :
    ((sampleTx c op k n s).resp = s.resp ∧ (sampleTx c op k n s).reports = s.reports ∧
      (sampleTx c op k n s).phase ≠ .idle) ∨
    ∃ x, (sampleTx c op k n s).resp = some x ∧ (sampleTx c op k n s).reports = s.reports ++ [x] ∧
      (sampleTx c op k n s).phase = .idle := by
  obtain h | ⟨_, h⟩ | ⟨_, h⟩ := sampleTx_cases c op k n s <;> rw [h]
  · simp
  · simp
  · simpa [timeoutExit_eq] using nextPart_response op k Config.sentinel
      (timeoutExit c .txPathFull (sub c op k).hold (sample .txReady s).2)

theorem sampleDone_response (c : Config) (op : BusOp) (k : Fin 2) (n : Nat) (s : State) :
    ((sampleDone c op k n s).resp = s.resp ∧ (sampleDone c op k n s).reports = s.reports ∧
      (sampleDone c op k n s).phase ≠ .idle) ∨
    ∃ x, (sampleDone c op k n s).resp = some x ∧ (sampleDone c op k n s).reports = s.reports ++ [x] ∧
      (sampleDone c op k n s).phase = .idle := by
  obtain h | ⟨_, h⟩ | ⟨_, h⟩ := sampleDone_cases c op k n s <;> rw [h]
  · simpa [successExit_eq] using nextPart_response op k (sample .xferComplete s).2.upcomingByte
      (successExit c (sub c op k) (readRxData (sample .xferComplete s).2).2)
  · simp
  · simpa [timeoutExit_eq] using nextPart_response op k Config.sentinel
      (timeoutExit c .transferIncomplete (sub c op k).hold (sample .xferComplete s).2)

/-- The events a timeout adds before the next part. -/
theorem timeout_hist (c : Config) (op : BusOp) (k : Fin 2) (cause : Cause) (f : Flag) (r : Byte) (s : State) :
    ∃ es, (nextPart op k r (timeoutExit c cause (sub c op k).hold (sample f s).2)).hist = s.hist ++ es ∧
      es.length ≤ 2 ∧ ∀ v, es ≠ [.byteOut v] := by
  simp only [nextPart_hist, timeoutExit_eq, sample_hist, sample_cs, List.append_assoc]
  refine ⟨_, rfl, ?_, fun v => ?_⟩ <;>
    rcases s.cs with _ | _ <;> cases timeoutReleases c (sub c op k).hold <;> cases hasNext op k <;>
    simp [frameClosing, frameOpening]

/-- What a sample of transmit-ready adds to the history: at most two events, and a byte out alone exactly on true. -/
theorem sampleTx_hist (c : Config) (op : BusOp) (k : Fin 2) (n : Nat) (s : State) :
    ∃ es, (sampleTx c op k n s).hist = s.hist ++ es ∧ es.length ≤ 2 ∧
      ∀ v, es = [.byteOut v] ↔ s.upcoming .txReady 0 = true ∧ v = (sub c op k).tx := by
  cases hu : s.upcoming .txReady 0
  · by_cases hn : n + 1 = c.spinMax
    · rw [sampleTx_timeout op k hu hn]
      obtain ⟨es, h1, h2, h3⟩ := timeout_hist c op k .txPathFull .txReady Config.sentinel s
      exact ⟨es, h1, h2, fun v => by simp [h3 v]⟩
    · rw [sampleTx_again op k hu hn]
      exact ⟨[], by simp, by simp, by simp⟩
  · rw [sampleTx_ready c op k n hu]
    exact ⟨[.byteOut (sub c op k).tx], by simp, by simp, fun v => by simp [eq_comm]⟩

/-- What a sample of transfer-complete adds to the history: at most two events, and no byte out. -/
theorem sampleDone_hist (c : Config) (op : BusOp) (k : Fin 2) (n : Nat) (s : State) :
    ∃ es, (sampleDone c op k n s).hist = s.hist ++ es ∧ es.length ≤ 2 ∧ ∀ v, es ≠ [.byteOut v] := by
  obtain h | ⟨_, h⟩ | ⟨_, h⟩ := sampleDone_cases c op k n s <;> rw [h]
  · cases hh : hasNext op k
    · simp only [nextPart_hist, successExit_eq, readRxData_hist, readRxData_cs, sample_hist, sample_cs, hh,
        List.append_assoc]
      refine ⟨_, rfl, ?_, fun v => ?_⟩ <;> rcases s.cs with _ | _ <;> cases (sub c op k).hold <;>
        simp [frameClosing]
    · simp only [nextPart_hist, successExit_eq, readRxData_hist, readRxData_cs, sample_hist, sample_cs, hh,
        (hasNext_spec c hh).2.1, List.append_assoc]
      refine ⟨_, rfl, ?_, fun v => ?_⟩ <;> rcases s.cs with _ | _ <;> simp [frameOpening]
  · exact ⟨[], by simp, by simp, by simp⟩
  · exact timeout_hist c op k .transferIncomplete .xferComplete Config.sentinel s

/-! ## The response port does not matter to a step -/

theorem stepAt_beginStep (c : Config) (s : State) : stepAt c (beginStep s) = stepAt c s := by
  have h : turn (beginStep s) = turn s := by
    obtain ⟨cs, phase, diag, configured, hist, requests, resp, reports, env⟩ := s
    cases phase <;> rfl
  simp only [stepAt, h]

theorem runAt_beginStep (c : Config) {n : Nat} (hn : 0 < n) (s : State) :
    runAt c n (beginStep s) = runAt c n s := by
  obtain ⟨m, rfl⟩ : ∃ m, n = m + 1 := ⟨n - 1, by omega⟩
  cases h : stepAt c s with
  | next t => rw [runAt_succ h, runAt_succ ((stepAt_beginStep c s).trans h)]
  | fault r => exact nomatch r
  | refused r => rw [runAt_refused h, runAt_refused ((stepAt_beginStep c s).trans h)]

end Sys2Proof.Machine
end

