-- ==== Sys2Proof/Laws/PerInstr.lean ====
section
/-! SUPPORT. Facts about every instruction as syntax, one lemma per constructor. -/

namespace Sys2Proof.Laws.WellFormed

/-- Every operation is well formed: its unused fields are zero and its operands fit by type (R73). -/
def Statement (i : Instr) : Prop := i.wellFormed = true

theorem transferR (d : Byte) : Statement (.transferR d) := by
  simp [Statement, Instr.wellFormed, Instr.fields, ReqFields.wellFormed]

theorem transferH (d : Byte) : Statement (.transferH d) := by
  simp [Statement, Instr.wellFormed, Instr.fields, ReqFields.wellFormed]

theorem rdreg (a : RegAddr) : Statement (.rdreg a) := by
  simp [Statement, Instr.wellFormed, Instr.fields, ReqFields.wellFormed]

theorem wrreg (a : RegAddr) (d : Byte) : Statement (.wrreg a d) := by
  simp [Statement, Instr.wellFormed, Instr.fields, ReqFields.wellFormed]

theorem rddiag : Statement .rddiag := by
  simp [Statement, Instr.wellFormed, Instr.fields, ReqFields.wellFormed]

end Sys2Proof.Laws.WellFormed
end

