-- ==== Sys2Proof/Laws/Wait.lean ====
section
/-! SUPPORT. The bounded waits: what the environment's next answers are after some samples, what a wait comes to, as a
function and as steps, and what a whole transfer comes to. -/

namespace Sys2Proof.Machine

open Sys2Proof.Safety

/-! ## Answers and samples -/

@[simp] theorem upcoming_sample (f : Flag) (s : State) (j : Nat) :
    (sample f s).2.upcoming f j = s.upcoming f (j + 1) := by
  simp [State.upcoming, Nat.add_assoc, Nat.add_comm 1]

@[simp] theorem upcoming_setPhase (p : Phase) (s : State) : (setPhase p s).upcoming = s.upcoming := rfl
@[simp] theorem upcoming_beginStep (s : State) : (beginStep s).upcoming = s.upcoming := rfl
@[simp] theorem upcomingByte_setPhase (p : Phase) (s : State) : (setPhase p s).upcomingByte = s.upcomingByte := rfl
@[simp] theorem upcomingByte_beginStep (s : State) : (beginStep s).upcomingByte = s.upcomingByte := rfl
@[simp] theorem upcomingByte_sample (f : Flag) (s : State) : (sample f s).2.upcomingByte = s.upcomingByte := by
  cases f <;> rfl

@[simp] theorem afterSamples_zero (f : Flag) (s : State) : afterSamples f 0 s = s := by
  cases f <;> rfl

theorem afterSamples_succ (f : Flag) (t : Nat) (s : State) :
    afterSamples f (t + 1) s = afterSamples f t (sample f s).2 := by
  cases f <;> simp [afterSamples, sample, Env.afterSample, Nat.add_assoc, Nat.add_comm 1]

@[simp] theorem afterSamples_cs (f : Flag) (t : Nat) (s : State) : (afterSamples f t s).cs = s.cs := by
  cases f <;> rfl
@[simp] theorem afterSamples_phase (f : Flag) (t : Nat) (s : State) : (afterSamples f t s).phase = s.phase := by
  cases f <;> rfl
@[simp] theorem afterSamples_diag (f : Flag) (t : Nat) (s : State) : (afterSamples f t s).diag = s.diag := by
  cases f <;> rfl
@[simp] theorem afterSamples_configured (f : Flag) (t : Nat) (s : State) :
    (afterSamples f t s).configured = s.configured := by
  cases f <;> rfl
@[simp] theorem afterSamples_hist (f : Flag) (t : Nat) (s : State) : (afterSamples f t s).hist = s.hist := by
  cases f <;> rfl
@[simp] theorem afterSamples_requests (f : Flag) (t : Nat) (s : State) :
    (afterSamples f t s).requests = s.requests := by
  cases f <;> rfl
@[simp] theorem afterSamples_resp (f : Flag) (t : Nat) (s : State) : (afterSamples f t s).resp = s.resp := by
  cases f <;> rfl
@[simp] theorem afterSamples_reports (f : Flag) (t : Nat) (s : State) :
    (afterSamples f t s).reports = s.reports := by
  cases f <;> rfl
@[simp] theorem afterSamples_samples (f : Flag) (t : Nat) (s : State) :
    (afterSamples f t s).env.samples = s.env.samples + t := by
  cases f <;> rfl

/-! ## The first true answer -/

theorem seenAt_one (s : State) (f : Flag) : SeenAt s f 1 ↔ s.upcoming f 0 = true := by
  simp [SeenAt]

theorem seenAt_succ (s : State) (f : Flag) (t : Nat) :
    SeenAt s f (t + 2) ↔ s.upcoming f 0 = false ∧ SeenAt (sample f s).2 f (t + 1) := by
  simp only [SeenAt, upcoming_sample]
  constructor
  · rintro ⟨-, h1, h2⟩
    exact ⟨h2 0 (by omega), by omega, h1, fun j hj => h2 (j + 1) (by omega)⟩
  · rintro ⟨h0, -, h1, h2⟩
    refine ⟨by omega, h1, fun j hj => ?_⟩
    cases j with
    | zero => exact h0
    | succ j => exact h2 j (by omega)

theorem notSeenWithin_succ (s : State) (f : Flag) (m : Nat) :
    NotSeenWithin s f (m + 1) ↔ s.upcoming f 0 = false ∧ NotSeenWithin (sample f s).2 f m := by
  simp only [NotSeenWithin, upcoming_sample]
  constructor
  · intro h
    exact ⟨h 0 (by omega), fun j hj => h (j + 1) (by omega)⟩
  · rintro ⟨h0, h⟩ j hj
    cases j with
    | zero => exact h0
    | succ j => exact h j (by omega)

/-- Of the first `m` answers, one is the first true one, or all are false. -/
theorem seen_or_not (s : State) (f : Flag) (m : Nat) :
    (∃ t, t ≤ m ∧ SeenAt s f t) ∨ NotSeenWithin s f m := by
  induction m generalizing s with
  | zero => exact .inr fun j hj => absurd hj (by omega)
  | succ m ih =>
    cases h : s.upcoming f 0 with
    | true => exact .inl ⟨1, by omega, (seenAt_one s f).2 h⟩
    | false =>
      obtain ⟨t, ht, hs⟩ | hn := ih (sample f s).2
      · obtain ⟨u, rfl⟩ : ∃ u, t = u + 1 := ⟨t - 1, by have := hs.1; omega⟩
        exact .inl ⟨u + 2, by omega, (seenAt_succ s f u).2 ⟨h, hs⟩⟩
      · exact .inr ((notSeenWithin_succ s f m).2 ⟨h, hn⟩)

/-! ## A wait as a function (R103, R105) -/

theorem waitFor_seen {f : Flag} {m t : Nat} {s : State} (h : SeenAt s f t) (ht : t ≤ m) :
    waitFor f m s = (true, afterSamples f t s) := by
  induction m generalizing s t with
  | zero => have := h.1; omega
  | succ m ih =>
    match t, h with
    | 1, h => simp [waitFor, (seenAt_one s f).1 h, afterSamples_succ]
    | t + 2, h =>
      obtain ⟨h0, h1⟩ := (seenAt_succ s f t).1 h
      simp [waitFor, h0, ih h1 (by omega), afterSamples_succ f (t + 1)]
    | 0, h => have := h.1; omega

theorem waitFor_notSeen {f : Flag} {m : Nat} {s : State} (h : NotSeenWithin s f m) :
    waitFor f m s = (false, afterSamples f m s) := by
  induction m generalizing s with
  | zero => simp [waitFor]
  | succ m ih =>
    obtain ⟨h0, h1⟩ := (notSeenWithin_succ s f m).1 h
    simp [waitFor, h0, ih h1, afterSamples_succ]

/-! ## The phase and the response port touch nothing else -/

@[simp] theorem setPhase_setPhase (p q : Phase) (s : State) : setPhase p (setPhase q s) = setPhase p s := rfl
@[simp] theorem respond_setPhase (r : Response) (p : Phase) (s : State) :
    respond r (setPhase p s) = respond r s := rfl
@[simp] theorem beginStep_setPhase (p : Phase) (s : State) :
    beginStep (setPhase p s) = setPhase p (beginStep s) := rfl
@[simp] theorem beginStep_beginStep (s : State) : beginStep (beginStep s) = beginStep s := rfl
@[simp] theorem respond_beginStep (r : Response) (s : State) : respond r (beginStep s) = respond r s := rfl
@[simp] theorem sample_setPhase (f : Flag) (p : Phase) (s : State) :
    (sample f (setPhase p s)).2 = setPhase p (sample f s).2 := rfl
@[simp] theorem sample_beginStep (f : Flag) (s : State) :
    (sample f (beginStep s)).2 = beginStep (sample f s).2 := rfl
@[simp] theorem readRxData_setPhase (p : Phase) (s : State) :
    (readRxData (setPhase p s)).2 = setPhase p (readRxData s).2 := rfl
@[simp] theorem readRxData_beginStep (s : State) : (readRxData (beginStep s)).2 = beginStep (readRxData s).2 := rfl
@[simp] theorem writeTxData_setPhase (v : Byte) (p : Phase) (s : State) :
    writeTxData v (setPhase p s) = setPhase p (writeTxData v s) := rfl
@[simp] theorem writeTxData_beginStep (v : Byte) (s : State) :
    writeTxData v (beginStep s) = beginStep (writeTxData v s) := rfl
@[simp] theorem afterSamples_setPhase (f : Flag) (t : Nat) (p : Phase) (s : State) :
    afterSamples f t (setPhase p s) = setPhase p (afterSamples f t s) := by
  cases f <;> rfl
@[simp] theorem afterSamples_beginStep (f : Flag) (t : Nat) (s : State) :
    afterSamples f t (beginStep s) = beginStep (afterSamples f t s) := by
  cases f <;> rfl

theorem csAssert_setPhase (p : Phase) (s : State) : csAssert (setPhase p s) = setPhase p (csAssert s) := by
  simp [csAssert_eq, setPhase]

theorem csAssert_beginStep (s : State) : csAssert (beginStep s) = beginStep (csAssert s) := by
  simp [csAssert_eq, beginStep]

theorem successExit_setPhase (c : Config) (x : SubTransfer) (p : Phase) (s : State) :
    successExit c x (setPhase p s) = setPhase p (successExit c x s) := by
  simp [successExit_eq, setPhase]

theorem timeoutExit_setPhase (c : Config) (cause : Cause) (hold : Bool) (p : Phase) (s : State) :
    timeoutExit c cause hold (setPhase p s) = setPhase p (timeoutExit c cause hold s) := by
  simp [timeoutExit_eq, setPhase]

/-- The next part of an operation does not depend on the phase before it. -/
theorem nextPart_setPhase (op : BusOp) (k : Fin 2) (r : Byte) (p : Phase) (s : State) :
    nextPart op k r (setPhase p s) = nextPart op k r s := by
  unfold nextPart
  split <;> simp [csAssert_setPhase]

/-! ## A wait as steps (R116) -/

/-- From the `n`-th sample of transmit-ready on, a flag seen in time is seen after that many steps. -/
theorem runAt_waitTx_seen {c : Config} {op : BusOp} {k : Fin 2} {n t : Nat} {s : State}
    (h : SeenAt s .txReady t) (ht : n + t ≤ c.spinMax) (hr : s.resp = none) :
    runAt c t (setPhase (.waitTx op k n) s) =
      .next (setPhase (.waitDone op k 0) (writeTxData (sub c op k).tx (afterSamples .txReady t s))) := by
  have hb : beginStep s = s := by rw [beginStep, ← hr]
  induction t generalizing s n with
  | zero => have := h.1; omega
  | succ t ih =>
    have hs := stepAt_waitTx (c := c) (s := setPhase (.waitTx op k n) s) (op := op) (k := k) (n := n) rfl
    rw [beginStep_setPhase, hb] at hs
    rw [runAt_succ hs]
    match t, h with
    | 0, h =>
      rw [sampleTx_ready _ _ _ _ (by simpa using (seenAt_one s .txReady).1 h)]
      simp [afterSamples_succ]
    | t + 1, h =>
      obtain ⟨h0, h1⟩ := (seenAt_succ s .txReady t).1 h
      rw [sampleTx_again _ _ (by simpa using h0) (by omega)]
      simp only [sample_setPhase, setPhase_setPhase]
      rw [ih (n := n + 1) h1 (by omega) (by simpa using hr) (by simp [← sample_beginStep, hb]),
        afterSamples_succ .txReady (t + 1)]

/-- A transmit-ready that is not seen in time ends the wait after the samples that are left. -/
theorem runAt_waitTx_notSeen {c : Config} {op : BusOp} {k : Fin 2} {n m : Nat} {s : State}
    (h : NotSeenWithin s .txReady (m + 1)) (hm : n + (m + 1) = c.spinMax) (hr : s.resp = none) :
    runAt c (m + 1) (setPhase (.waitTx op k n) s) =
      .next (nextPart op k Config.sentinel
        (timeoutExit c .txPathFull (sub c op k).hold (afterSamples .txReady (m + 1) s))) := by
  have hb : beginStep s = s := by rw [beginStep, ← hr]
  induction m generalizing s n with
  | zero =>
    have hs := stepAt_waitTx (c := c) (s := setPhase (.waitTx op k n) s) (op := op) (k := k) (n := n) rfl
    rw [beginStep_setPhase, hb] at hs
    rw [runAt_succ hs, sampleTx_timeout _ _ (by simpa using h 0 (by omega)) (by omega)]
    simp [afterSamples_succ, timeoutExit_setPhase, nextPart_setPhase]
  | succ m ih =>
    have hs := stepAt_waitTx (c := c) (s := setPhase (.waitTx op k n) s) (op := op) (k := k) (n := n) rfl
    rw [beginStep_setPhase, hb] at hs
    obtain ⟨h0, h1⟩ := (notSeenWithin_succ s .txReady (m + 1)).1 h
    rw [runAt_succ hs, sampleTx_again _ _ (by simpa using h0) (by omega)]
    simp only [sample_setPhase, setPhase_setPhase]
    rw [ih (n := n + 1) h1 (by omega) (by simpa using hr) (by simp [← sample_beginStep, hb]),
      afterSamples_succ .txReady (m + 1)]

/-- From the `n`-th sample of transfer-complete on, a flag seen in time ends the transfer after that many steps. -/
theorem runAt_waitDone_seen {c : Config} {op : BusOp} {k : Fin 2} {n t : Nat} {s : State}
    (h : SeenAt s .xferComplete t) (ht : n + t ≤ c.spinMax) (hr : s.resp = none) :
    runAt c t (setPhase (.waitDone op k n) s) =
      .next (nextPart op k (afterSamples .xferComplete t s).upcomingByte
        (successExit c (sub c op k) (readRxData (afterSamples .xferComplete t s)).2)) := by
  have hb : beginStep s = s := by rw [beginStep, ← hr]
  induction t generalizing s n with
  | zero => have := h.1; omega
  | succ t ih =>
    have hs := stepAt_waitDone (c := c) (s := setPhase (.waitDone op k n) s) (op := op) (k := k) (n := n) rfl
    rw [beginStep_setPhase, hb] at hs
    rw [runAt_succ hs]
    match t, h with
    | 0, h =>
      rw [sampleDone_complete _ _ _ _ (by simpa using (seenAt_one s .xferComplete).1 h)]
      simp [afterSamples_succ, successExit_setPhase, nextPart_setPhase]
    | t + 1, h =>
      obtain ⟨h0, h1⟩ := (seenAt_succ s .xferComplete t).1 h
      rw [sampleDone_again _ _ (by simpa using h0) (by omega)]
      simp only [sample_setPhase, setPhase_setPhase]
      rw [ih (n := n + 1) h1 (by omega) (by simpa using hr) (by simp [← sample_beginStep, hb]),
        afterSamples_succ .xferComplete (t + 1)]

/-- A transfer-complete that is not seen in time ends the transfer after the samples that are left. -/
theorem runAt_waitDone_notSeen {c : Config} {op : BusOp} {k : Fin 2} {n m : Nat} {s : State}
    (h : NotSeenWithin s .xferComplete (m + 1)) (hm : n + (m + 1) = c.spinMax) (hr : s.resp = none) :
    runAt c (m + 1) (setPhase (.waitDone op k n) s) =
      .next (nextPart op k Config.sentinel
        (timeoutExit c .transferIncomplete (sub c op k).hold (afterSamples .xferComplete (m + 1) s))) := by
  have hb : beginStep s = s := by rw [beginStep, ← hr]
  induction m generalizing s n with
  | zero =>
    have hs := stepAt_waitDone (c := c) (s := setPhase (.waitDone op k n) s) (op := op) (k := k) (n := n) rfl
    rw [beginStep_setPhase, hb] at hs
    rw [runAt_succ hs, sampleDone_timeout _ _ (by simpa using h 0 (by omega)) (by omega)]
    simp [afterSamples_succ, timeoutExit_setPhase, nextPart_setPhase]
  | succ m ih =>
    have hs := stepAt_waitDone (c := c) (s := setPhase (.waitDone op k n) s) (op := op) (k := k) (n := n) rfl
    rw [beginStep_setPhase, hb] at hs
    obtain ⟨h0, h1⟩ := (notSeenWithin_succ s .xferComplete (m + 1)).1 h
    rw [runAt_succ hs, sampleDone_again _ _ (by simpa using h0) (by omega)]
    simp only [sample_setPhase, setPhase_setPhase]
    rw [ih (n := n + 1) h1 (by omega) (by simpa using hr) (by simp [← sample_beginStep, hb]),
      afterSamples_succ .xferComplete (m + 1)]

/-! ## A transfer as steps -/

/-- The fields a transfer's prologue leaves. -/
theorem csAssert_resp (s : State) : (csAssert s).resp = s.resp := by
  rw [csAssert_eq]

theorem pushedState_resp (x : SubTransfer) (t1 : Nat) (s : State) : (pushedState x t1 s).resp = s.resp := by
  simp [pushedState, csAssert_resp]

/-- A transfer that is answered takes `t1 + t2` steps. -/
theorem runAt_answered {c : Config} {op : BusOp} {k : Fin 2} {t1 t2 : Nat} {s : State}
    (h : Answered c (sub c op k) t1 t2 s) (hr : s.resp = none) :
    runAt c (t1 + t2) (setPhase (.waitTx op k 0) (csAssert s)) =
      .next (nextPart op k (receivedByte (sub c op k) t1 t2 s) (answeredEnd c (sub c op k) t1 t2 s)) := by
  obtain ⟨h1, l1, h2, l2⟩ := h
  rw [runAt_add (runAt_waitTx_seen h1 (by omega) (by rwa [csAssert_resp]))]
  exact runAt_waitDone_seen (s := pushedState (sub c op k) t1 s) h2 (by omega) (by rwa [pushedState_resp])

/-- A transfer whose transmit-ready does not come takes `SPIN_MAX` steps. -/
theorem runAt_neverReady {c : Config} {op : BusOp} {k : Fin 2} {s : State} (h : NeverReady c s)
    (hr : s.resp = none) :
    runAt c c.spinMax (setPhase (.waitTx op k 0) (csAssert s)) =
      .next (nextPart op k Config.sentinel (neverReadyEnd c (sub c op k) s)) := by
  obtain ⟨m, hm⟩ : ∃ m, c.spinMax = m + 1 := ⟨c.spinMax - 1, by have := c.spinMax_pos; omega⟩
  unfold NeverReady at h
  unfold neverReadyEnd
  rw [hm] at h ⊢
  exact runAt_waitTx_notSeen h (by omega) (by rwa [csAssert_resp])

/-- A transfer whose transfer-complete does not come takes `t1 + SPIN_MAX` steps. -/
theorem runAt_neverComplete {c : Config} {op : BusOp} {k : Fin 2} {t1 : Nat} {s : State}
    (h : NeverComplete c (sub c op k) t1 s) (hr : s.resp = none) :
    runAt c (t1 + c.spinMax) (setPhase (.waitTx op k 0) (csAssert s)) =
      .next (nextPart op k Config.sentinel (neverCompleteEnd c (sub c op k) t1 s)) := by
  obtain ⟨h1, l1, h2⟩ := h
  rw [runAt_add (runAt_waitTx_seen h1 (by omega) (by rwa [csAssert_resp]))]
  obtain ⟨m, hm⟩ : ∃ m, c.spinMax = m + 1 := ⟨c.spinMax - 1, by have := c.spinMax_pos; omega⟩
  unfold neverCompleteEnd
  rw [hm] at h2 ⊢
  exact runAt_waitDone_notSeen (s := pushedState (sub c op k) t1 s) h2 (by omega) (by rwa [pushedState_resp])

end Sys2Proof.Machine
end

