-- ==== Sys2Proof/Laws/Transfer.lean ====
section
/-! SUPPORT. The three states a transfer can end in, field by field, and that none of them depends on the response
port. -/

namespace Sys2Proof.Machine

open Sys2Proof.Safety

/-! ## An answered transfer -/

section
variable (c : Config) (x : SubTransfer) (t1 t2 : Nat) (s : State)

@[simp] theorem answeredEnd_cs :
    (answeredEnd c x t1 t2 s).cs = if x.hold then .asserted else .released := by
  simp [answeredEnd, completedState, pushedState, successExit_eq, csAssert_eq]
@[simp] theorem answeredEnd_phase : (answeredEnd c x t1 t2 s).phase = s.phase := by
  simp [answeredEnd, completedState, pushedState, successExit_eq, csAssert_eq]
@[simp] theorem answeredEnd_diag : (answeredEnd c x t1 t2 s).diag = diagAfterSuccess c s.diag := by
  simp [answeredEnd, completedState, pushedState, successExit_eq, csAssert_eq]
@[simp] theorem answeredEnd_configured : (answeredEnd c x t1 t2 s).configured = s.configured := by
  simp [answeredEnd, completedState, pushedState, successExit_eq, csAssert_eq]
@[simp] theorem answeredEnd_requests : (answeredEnd c x t1 t2 s).requests = s.requests := by
  simp [answeredEnd, completedState, pushedState, successExit_eq, csAssert_eq]
@[simp] theorem answeredEnd_resp : (answeredEnd c x t1 t2 s).resp = s.resp := by
  simp [answeredEnd, completedState, pushedState, successExit_eq, csAssert_eq]
@[simp] theorem answeredEnd_reports : (answeredEnd c x t1 t2 s).reports = s.reports := by
  simp [answeredEnd, completedState, pushedState, successExit_eq, csAssert_eq]
@[simp] theorem answeredEnd_samples : (answeredEnd c x t1 t2 s).env.samples = s.env.samples + t1 + t2 := by
  simp [answeredEnd, completedState, pushedState, successExit_eq, csAssert_eq]
@[simp] theorem answeredEnd_reads : (answeredEnd c x t1 t2 s).env.reads = s.env.reads + 1 := by
  simp [answeredEnd, completedState, pushedState, successExit_eq, csAssert_eq, afterSamples]
theorem answeredEnd_hist :
    (answeredEnd c x t1 t2 s).hist =
      s.hist ++ frameOpening s.cs ++ [.byteOut x.tx, .byteIn (receivedByte x t1 t2 s)] ++
        if x.hold then [] else [.frameEnd] := by
  simp [answeredEnd, completedState, pushedState, successExit_eq, csAssert_eq, receivedByte, frameClosing]

/-! ## A transfer that timed out -/

@[simp] theorem neverReadyEnd_cs : (neverReadyEnd c x s).cs = csAfterTimeout c x.hold := by
  simp [neverReadyEnd, timeoutExit_eq, csAssert_eq, csAfterTimeout]
@[simp] theorem neverReadyEnd_phase : (neverReadyEnd c x s).phase = s.phase := by
  simp [neverReadyEnd, timeoutExit_eq, csAssert_eq]
@[simp] theorem neverReadyEnd_diag : (neverReadyEnd c x s).diag = some .txPathFull := by
  simp [neverReadyEnd, timeoutExit_eq]
@[simp] theorem neverReadyEnd_configured : (neverReadyEnd c x s).configured = s.configured := by
  simp [neverReadyEnd, timeoutExit_eq, csAssert_eq]
@[simp] theorem neverReadyEnd_requests : (neverReadyEnd c x s).requests = s.requests := by
  simp [neverReadyEnd, timeoutExit_eq, csAssert_eq]
@[simp] theorem neverReadyEnd_resp : (neverReadyEnd c x s).resp = s.resp := by
  simp [neverReadyEnd, timeoutExit_eq, csAssert_eq]
@[simp] theorem neverReadyEnd_reports : (neverReadyEnd c x s).reports = s.reports := by
  simp [neverReadyEnd, timeoutExit_eq, csAssert_eq]
@[simp] theorem neverReadyEnd_samples : (neverReadyEnd c x s).env.samples = s.env.samples + c.spinMax := by
  simp [neverReadyEnd, timeoutExit_eq, csAssert_eq]
@[simp] theorem neverReadyEnd_reads : (neverReadyEnd c x s).env.reads = s.env.reads := by
  simp [neverReadyEnd, timeoutExit_eq, csAssert_eq, afterSamples]
theorem neverReadyEnd_hist :
    (neverReadyEnd c x s).hist = s.hist ++ frameOpening s.cs ++ timeoutClosing c x.hold := by
  simp [neverReadyEnd, timeoutExit_eq, csAssert_eq, timeoutClosing, frameClosing]

@[simp] theorem neverCompleteEnd_cs : (neverCompleteEnd c x t1 s).cs = csAfterTimeout c x.hold := by
  simp [neverCompleteEnd, pushedState, timeoutExit_eq, csAssert_eq, csAfterTimeout]
@[simp] theorem neverCompleteEnd_phase : (neverCompleteEnd c x t1 s).phase = s.phase := by
  simp [neverCompleteEnd, pushedState, timeoutExit_eq, csAssert_eq]
@[simp] theorem neverCompleteEnd_diag : (neverCompleteEnd c x t1 s).diag = some .transferIncomplete := by
  simp [neverCompleteEnd, timeoutExit_eq]
@[simp] theorem neverCompleteEnd_configured : (neverCompleteEnd c x t1 s).configured = s.configured := by
  simp [neverCompleteEnd, pushedState, timeoutExit_eq, csAssert_eq]
@[simp] theorem neverCompleteEnd_requests : (neverCompleteEnd c x t1 s).requests = s.requests := by
  simp [neverCompleteEnd, pushedState, timeoutExit_eq, csAssert_eq]
@[simp] theorem neverCompleteEnd_resp : (neverCompleteEnd c x t1 s).resp = s.resp := by
  simp [neverCompleteEnd, pushedState, timeoutExit_eq, csAssert_eq]
@[simp] theorem neverCompleteEnd_reports : (neverCompleteEnd c x t1 s).reports = s.reports := by
  simp [neverCompleteEnd, pushedState, timeoutExit_eq, csAssert_eq]
@[simp] theorem neverCompleteEnd_samples :
    (neverCompleteEnd c x t1 s).env.samples = s.env.samples + t1 + c.spinMax := by
  simp [neverCompleteEnd, pushedState, timeoutExit_eq, csAssert_eq]
@[simp] theorem neverCompleteEnd_reads : (neverCompleteEnd c x t1 s).env.reads = s.env.reads := by
  simp [neverCompleteEnd, pushedState, timeoutExit_eq, csAssert_eq, afterSamples]
theorem neverCompleteEnd_hist :
    (neverCompleteEnd c x t1 s).hist =
      s.hist ++ frameOpening s.cs ++ [.byteOut x.tx] ++ timeoutClosing c x.hold := by
  simp [neverCompleteEnd, pushedState, timeoutExit_eq, csAssert_eq, timeoutClosing, frameClosing]

/-! ## The response port does not matter to a transfer -/

theorem successExit_beginStep : successExit c x (beginStep s) = beginStep (successExit c x s) := by
  simp [successExit_eq, beginStep]

theorem timeoutExit_beginStep (cause : Cause) (hold : Bool) :
    timeoutExit c cause hold (beginStep s) = beginStep (timeoutExit c cause hold s) := by
  simp [timeoutExit_eq, beginStep]

theorem pushedState_beginStep : pushedState x t1 (beginStep s) = beginStep (pushedState x t1 s) := by
  simp only [pushedState, csAssert_beginStep, afterSamples_beginStep, writeTxData_beginStep]

theorem receivedByte_beginStep : receivedByte x t1 t2 (beginStep s) = receivedByte x t1 t2 s := by
  simp only [receivedByte, completedState, pushedState_beginStep, afterSamples_beginStep, upcomingByte_beginStep]

theorem answeredEnd_beginStep : answeredEnd c x t1 t2 (beginStep s) = beginStep (answeredEnd c x t1 t2 s) := by
  simp only [answeredEnd, completedState, pushedState_beginStep, afterSamples_beginStep, readRxData_beginStep,
    successExit_beginStep]

theorem neverReadyEnd_beginStep : neverReadyEnd c x (beginStep s) = beginStep (neverReadyEnd c x s) := by
  simp only [neverReadyEnd, csAssert_beginStep, afterSamples_beginStep, timeoutExit_beginStep]

theorem neverCompleteEnd_beginStep :
    neverCompleteEnd c x t1 (beginStep s) = beginStep (neverCompleteEnd c x t1 s) := by
  simp only [neverCompleteEnd, pushedState_beginStep, afterSamples_beginStep, timeoutExit_beginStep]

theorem answered_beginStep : Answered c x t1 t2 (beginStep s) ↔ Answered c x t1 t2 s := by
  simp only [Answered, SeenAt, csAssert_beginStep, pushedState_beginStep, upcoming_beginStep]

theorem neverReady_beginStep : NeverReady c (beginStep s) ↔ NeverReady c s := by
  simp only [NeverReady, NotSeenWithin, csAssert_beginStep, upcoming_beginStep]

theorem neverComplete_beginStep : NeverComplete c x t1 (beginStep s) ↔ NeverComplete c x t1 s := by
  simp only [NeverComplete, SeenAt, NotSeenWithin, csAssert_beginStep, pushedState_beginStep, upcoming_beginStep]

end

/-! ## The instruction an operation in progress is -/

/-- Accepting a bus operation, from `exec`. -/
theorem exec_accepts {s : State} (op : BusOp) (hp : s.phase = .idle) (hc : s.configured = true) :
    exec op.instr s = .next (accept op s) := by
  rw [exec_eq_execAt, execAt_instr, busOp_idle op hp hc]

end Sys2Proof.Machine
end

