-- ==== Sys2Proof/Laws/Wire.lean ====
section
/-! SUPPORT. Reading histories: a scan and the frames of a history that grew. -/

namespace Sys2Proof.Safety

open Sys2Proof.Machine

/-- A scan of a history that grew goes on from where the old one ended. -/
theorem wireScan_append {w w' : WireState} {h : List BusEvent} (hs : wireScan w h = some w') (es : List BusEvent) :
    wireScan w (h ++ es) = wireScan w' es := by
  induction h generalizing w with
  | nil =>
    cases hs
    rfl
  | cons e h ih =>
    simp only [wireScan, List.cons_append] at hs ⊢
    cases hn : wireNext w e with
    | none => simp [hn] at hs
    | some v =>
      simp only [hn] at hs ⊢
      exact ih hs

/-- The frames of a history that grew. -/
theorem framesOf_append (h es : List BusEvent) : framesOf (h ++ es) = es.foldl seeEvent (framesOf h) := by
  simp [framesOf, List.foldl_append]

/-- A byte joins the last frame there is. -/
theorem addToLastFrame_append (v : Byte) (fs : List (List Byte)) (f : List Byte) :
    addToLastFrame v (fs ++ [f]) = fs ++ [f ++ [v]] := by
  induction fs with
  | nil => rfl
  | cons g fs ih =>
    cases fs with
    | nil => rfl
    | cons g' fs => simpa [addToLastFrame] using ih

/-- Whether a history that was quiet stays so depends on what is added only. -/
theorem wireQuiet_append {h : List BusEvent} (hq : wireQuiet h = true) (es : List BusEvent) :
    wireQuiet (h ++ es) = wireQuiet es := by
  simp only [wireQuiet, beq_iff_eq] at hq
  simp [wireQuiet, List.countP_append, hq]

end Sys2Proof.Safety
end

