-- ==== Sys2Proof/Tests/Slice0.lean ====
section
/-! SUPPORT. Tests, their expected values taken from the spec (95_test_vectors.md unless a rule is named), and for each
obligation with hypotheses a witness that meets them. -/

namespace Sys2Proof.Tests

open Sys2Proof.Machine Sys2Proof.Safety

/-! ## Helpers -/

/-- The start state of 95_test_vectors.md section 0, with the answers the environment has ready. -/
def start (tx done : List Bool) (rx : List Byte) : State :=
  { State.reset with
    configured := true
    env := { txReady := tx, xferComplete := done, rxData := rx, samples := 0, reads := 0 } }

/-- The default parameters with SPIN_MAX = 1. -/
def tiny (p : CsOnTimeout) (q : DiagOnSuccess) : Config :=
  { spinMax := 1, csOnTimeout := p, diagOnSuccess := q, csActiveLevel := .low, regMap := fun _ => 0 }

/-! ## Well-formedness: one ill-formed term for each check (R75, R80) -/

theorem test_transfer_with_address_ill_formed :
    ReqFields.wellFormed { op := .transfer, h := false, a := 1, d := 0 } = false := by decide
theorem test_rdreg_with_hold_ill_formed :
    ReqFields.wellFormed { op := .rdreg, h := true, a := 3, d := 0 } = false := by decide
theorem test_rdreg_with_data_ill_formed :
    ReqFields.wellFormed { op := .rdreg, h := false, a := 3, d := 1 } = false := by decide
theorem test_wrreg_with_hold_ill_formed :
    ReqFields.wellFormed { op := .wrreg, h := true, a := 3, d := 1 } = false := by decide
theorem test_rddiag_with_hold_ill_formed :
    ReqFields.wellFormed { op := .rddiag, h := true, a := 0, d := 0 } = false := by decide
theorem test_rddiag_with_address_ill_formed :
    ReqFields.wellFormed { op := .rddiag, h := false, a := 1, d := 0 } = false := by decide
theorem test_rddiag_with_data_ill_formed :
    ReqFields.wellFormed { op := .rddiag, h := false, a := 0, d := 1 } = false := by decide
theorem test_asm_address_too_wide : AsmLine.wellFormed (.rdreg 0x80) = false ∧
    AsmLine.wellFormed (.readreg 0x80) = false ∧ AsmLine.wellFormed (.wrreg 0x80 0) = false ∧
    AsmLine.wellFormed (.writereg 0x80 0) = false := by decide
theorem test_asm_byte_too_wide : AsmLine.wellFormed (.transferR 256) = false ∧
    AsmLine.wellFormed (.transferH 256) = false ∧ AsmLine.wellFormed (.transfer 256 true) = false ∧
    AsmLine.wellFormed (.wrreg 0 256) = false ∧ AsmLine.wellFormed (.writereg 0 256) = false ∧
    AsmLine.wellFormed (.frame 256 []) = false ∧ AsmLine.wellFormed (.frame 0 [256]) = false := by decide

/-! ## Decoding: words written out as `op h a d` from R70 and R71 -/

theorem test_decode_transferR : decode 0b00_0_0000000_10100101#18 = .ok (.transferR 0xA5) := by decide
theorem test_decode_transferH : decode 0b00_1_0000000_10100101#18 = .ok (.transferH 0xA5) := by decide
theorem test_decode_rdreg : decode 0b01_0_0000011_00000000#18 = .ok (.rdreg 0x03) := by decide
theorem test_decode_wrreg : decode 0b10_0_0100000_00000001#18 = .ok (.wrreg 0x20 0x01) := by decide
theorem test_decode_rddiag : decode 0b11_0_0000000_00000000#18 = .ok .rddiag := by decide
theorem test_decode_field_ends : decode 0b10_0_1000001_10000010#18 = .ok (.wrreg 0x41 0x82) := by decide
theorem test_decode_reserved :
    decode 0b00_0_0000001_00000000#18 = .error .transferAddr ∧
    decode 0b01_1_0000000_00000000#18 = .error .rdregHold ∧
    decode 0b01_0_0000011_00000001#18 = .error .rdregData ∧
    decode 0b10_1_0000000_00000000#18 = .error .wrregHold ∧
    decode 0b11_1_0000000_00000000#18 = .error .rddiagHold ∧
    decode 0b11_0_0000001_00000000#18 = .error .rddiagAddr ∧
    decode 0b11_0_0000000_00000001#18 = .error .rddiagData := by decide
theorem test_decodeTableWord :
    decodeTableWord 24 0x000A5 = some (.transferR 0xA5) ∧ decodeTableWord 24 0x080A5 = some (.transferH 0xA5) ∧
    decodeTableWord 24 0x10300 = some (.rdreg 0x03) ∧ decodeTableWord 24 0x22001 = some (.wrreg 0x20 0x01) ∧
    decodeTableWord 24 0x30000 = some .rddiag ∧ decodeTableWord 24 0x3FFFF = none ∧
    decodeTableWord 24 0x40000 = none := by decide

/-! ## Assembler (R80) -/

theorem test_assemble_text :
    assembleText "TRANSFER 0x12, 1" = some [0x08012] ∧ assembleText "FRAME 0x07" = some [0x00007] ∧
    assembleText "RDREG 0x80" = none ∧ assembleText "WRREG 0x20, 0x01" = some [0x22001] := by decide
theorem test_assemble_frame :
    AsmLine.assemble (.frame 0x07 [0x00, 0x00]) = some [0x08007, 0x08000, 0x00000] := by decide

/-! ## One step after reset: each row is accepted -/

theorem test_step_accepts_transferR : ∃ t, step (State.reset.withFetchWord 24 0x000A5) = .next t ∧
    t.phase = .waitTx (.transferR 0xA5) 0 0 ∧ t.hist = [.frameStart] := ⟨_, rfl, by decide⟩
theorem test_step_accepts_transferH : ∃ t, step (State.reset.withFetchWord 24 0x080A5) = .next t ∧
    t.phase = .waitTx (.transferH 0xA5) 0 0 ∧ t.cs = .asserted := ⟨_, rfl, by decide⟩
theorem test_step_accepts_rdreg : ∃ t, step (State.reset.withFetchWord 24 0x10300) = .next t ∧
    t.phase = .waitTx (.rdreg 0x03) 0 0 ∧ t.requests = [] := ⟨_, rfl, by decide⟩
theorem test_step_accepts_wrreg : ∃ t, step (State.reset.withFetchWord 24 0x22001) = .next t ∧
    t.phase = .waitTx (.wrreg 0x20 0x01) 0 0 ∧ t.resp = none := ⟨_, rfl, by decide⟩
/-- Vector G1. -/
theorem test_step_rddiag_after_reset : ∃ t, step (State.reset.withFetchWord 24 0x30000) = .next t ∧
    t.resp = some (.byte 0x00) ∧ t.hist = [] ∧ t.phase = .idle := ⟨_, rfl, by decide⟩

/-- R181: the clock is unspecified before the bus is configured and idles low after. -/
theorem test_sck_after_reset : readSck State.reset = .error .lineUnspecified ∧
    readSck (configureBus State.reset) = .ok .low := ⟨rfl, rfl⟩

/-! ## Whole operations, the first vectors of each kind, at SPIN_MAX = 1 where one sample decides -/

/-- Vector T13, and T1's events. -/
theorem test_transferR : ((procedureState (tiny .keep .keep) (.transferR 0x42) (start [true] [true] [0x24])).resp,
    (procedureState (tiny .keep .keep) (.transferR 0x42) (start [true] [true] [0x24])).hist) =
    (some (.byte 0x24), [.frameStart, .byteOut 0x42, .byteIn 0x24, .frameEnd]) := by decide
/-- Vector T14 under Keep. -/
theorem test_transferR_timeout :
    ((procedureState (tiny .keep .keep) (.transferR 0x42) (start [false] [] [])).diag,
    (procedureState (tiny .keep .keep) (.transferR 0x42) (start [false] [] [])).hist) =
    (some .txPathFull, [.frameStart]) := by decide
/-- Vector T2. -/
theorem test_transferH : ((procedureState (tiny .keep .keep) (.transferH 0xA5) (start [true] [true] [0x3C])).cs,
    (procedureState (tiny .keep .keep) (.transferH 0xA5) (start [true] [true] [0x3C])).hist) =
    (.asserted, [.frameStart, .byteOut 0xA5, .byteIn 0x3C]) := by decide
/-- Vector T6 under FollowHold, at SPIN_MAX = 1. -/
theorem test_transferH_timeout :
    ((procedureState (tiny .followHold .keep) (.transferH 0x55) (start [false] [] [])).cs,
    (procedureState (tiny .followHold .keep) (.transferH 0x55) (start [false] [] [])).resp) =
    (.asserted, some (.byte 0xFF)) := by decide
/-- Vector A1. -/
theorem test_rdreg :
    ((procedureState (tiny .keep .keep) (.rdreg 0x03) (start [true, true] [true, true] [0xAA, 0x20])).resp,
    (procedureState (tiny .keep .keep) (.rdreg 0x03) (start [true, true] [true, true] [0xAA, 0x20])).hist) =
    (some (.byte 0x20),
      [.frameStart, .byteOut 0x07, .byteIn 0xAA, .byteOut 0x00, .byteIn 0x20, .frameEnd]) := by decide
/-- Vector A5 under Release, at SPIN_MAX = 1. -/
theorem test_rdreg_lost_command :
    ((procedureState (tiny .release .keep) (.rdreg 0x03) (start [false, true] [true] [0x5A])).diag,
    (procedureState (tiny .release .keep) (.rdreg 0x03) (start [false, true] [true] [0x5A])).hist) =
    (some .txPathFull,
      [.frameStart, .frameEnd, .frameStart, .byteOut 0x00, .byteIn 0x5A, .frameEnd]) := by decide
/-- Vector P3's first request under Keep, and under Clear by R107 (log 11). -/
theorem test_rdreg_command_timeout :
    (procedureState (tiny .keep .keep) (.rdreg 0x03) (start [false, true] [true] [0x5A])).diag = some .txPathFull ∧
    (procedureState (tiny .keep .clear) (.rdreg 0x03) (start [false, true] [true] [0x5A])).diag = none := by decide
/-- Vector A3, with x = 0x11 and y = 0x22. -/
theorem test_wrreg :
    ((procedureState (tiny .keep .keep) (.wrreg 0x20 0x01) (start [true, true] [true, true] [0x11, 0x22])).resp,
    (procedureState (tiny .keep .keep) (.wrreg 0x20 0x01) (start [true, true] [true, true] [0x11, 0x22])).hist) =
    (some .noValue,
      [.frameStart, .byteOut 0x40, .byteIn 0x11, .byteOut 0x01, .byteIn 0x22, .frameEnd]) := by decide
/-- Vector A9 under Keep, at SPIN_MAX = 1. -/
theorem test_wrreg_timeout :
    ((procedureState (tiny .keep .keep) (.wrreg 0x20 0x00) (start [true, false] [true] [0x11])).cs,
    (procedureState (tiny .keep .keep) (.wrreg 0x20 0x00) (start [true, false] [true] [0x11])).hist) =
    (.asserted, [.frameStart, .byteOut 0x40, .byteIn 0x11]) := by decide
/-- Vector G3. -/
theorem test_rddiag : ∃ t, exec .rddiag { start [] [] [] with diag := some .transferIncomplete } = .next t ∧
    t.resp = some (.byte 0x02) := ⟨_, rfl, rfl⟩

/-! ## Witnesses: the hypotheses of each obligation are met together -/

/-- An environment that answers every flag at once. -/
def prompt : State := start [true, true] [true, true] [0xAA, 0x20]

/-- An environment that never shows transmit-ready in a first wait, and answers at once afterwards. -/
def deaf (c : Config) : State := start (List.replicate c.spinMax false ++ [true]) [true] [0x5A]

/-- An environment that shows transmit-ready, but never transfer-complete in a first wait, and answers at once
afterwards. -/
def stuck (c : Config) : State := start [true, true] (List.replicate c.spinMax false ++ [true]) [0x5A]

theorem platform_pos : 1 ≤ Config.platform.spinMax := Config.platform.spinMax_pos

theorem deaf_false (c : Config) (l : List Bool) (j : Nat) (h : j < c.spinMax) (b : Bool) :
    (List.replicate c.spinMax false ++ l)[j]?.getD b = false := by
  rw [List.getElem?_append_left (by simpa using h)]
  simp [h]

theorem prompt_answered (c : Config) (x : SubTransfer) : Answered c x 1 1 prompt :=
  ⟨⟨le_refl 1, rfl, fun j h => by omega⟩, c.spinMax_pos, ⟨le_refl 1, rfl, fun j h => by omega⟩, c.spinMax_pos⟩

theorem prompt_answered_again (c : Config) (x y : SubTransfer) (hx : x.hold = true) :
    Answered c y 1 1 (answeredEnd c x 1 1 prompt) := by
  obtain ⟨v, hold⟩ := x
  simp only at hx
  subst hx
  exact ⟨⟨le_refl 1, rfl, fun j h => by omega⟩, c.spinMax_pos, ⟨le_refl 1, rfl, fun j h => by omega⟩, c.spinMax_pos⟩

theorem deaf_neverReady (c : Config) : NeverReady c (deaf c) := fun j h => deaf_false c [true] j h _

theorem stuck_neverComplete (c : Config) (x : SubTransfer) : NeverComplete c x 1 (stuck c) :=
  ⟨⟨le_refl 1, rfl, fun j h => by omega⟩, c.spinMax_pos, fun j h => deaf_false c [true] j h _⟩

theorem seen_at_once {s : State} {f : Flag} {l : List Bool} (h : s.env.answers f = true :: l) : SeenAt s f 1 :=
  (seenAt_one s f).2 (by simp [State.upcoming, h])

/-- Where both flags have a true answer ready first, a transfer is answered. -/
theorem answered_at_once {c : Config} {x : SubTransfer} {s : State} {l m : List Bool}
    (h : s.env.txReady = true :: l) (h' : s.env.xferComplete = true :: m) : Answered c x 1 1 s :=
  ⟨seen_at_once (l := l) (by simp [csAssert_eq, Env.answers, h]), c.spinMax_pos,
    seen_at_once (l := m) (by simp [pushedState, csAssert_eq, afterSamples, Env.answers, h']), c.spinMax_pos⟩

theorem deaf_then_answered (c : Config) (x y : SubTransfer) : Answered c y 1 1 (neverReadyEnd c x (deaf c)) :=
  answered_at_once (l := []) (m := [])
    (by simp [neverReadyEnd, timeoutExit_eq, csAssert_eq, afterSamples, deaf, start])
    (by simp [neverReadyEnd, timeoutExit_eq, csAssert_eq, afterSamples, deaf, start])

theorem stuck_then_answered (c : Config) (x y : SubTransfer) :
    Answered c y 1 1 (neverCompleteEnd c x 1 (stuck c)) :=
  answered_at_once (l := []) (m := [])
    (by simp [neverCompleteEnd, pushedState, timeoutExit_eq, csAssert_eq, afterSamples, stuck, start])
    (by simp [neverCompleteEnd, pushedState, timeoutExit_eq, csAssert_eq, afterSamples, stuck, start])

/-! ### Encoding -/

theorem witness_DecodeAndEncodeAreInverse :
    (Instr.wrreg 0x7F 0xFF).wellFormed = true ∧ decode 0x27FFF = .ok (.wrreg 0x7F 0xFF) := by decide
theorem witness_DecodeAgreesWithTheMatchMaskTable :
    decode 0x17F00 = .ok (.rdreg 0x7F) ∧ decode 0x00100 = .error .transferAddr := by decide
theorem witness_ReservedWordsAreRefused : (offer 0x28000 prompt).phase = .idle ∧
    (offer 0x28000 prompt).requests = 0x28000 :: [] ∧
    (0x28000 : ReqWord).extractLsb' 16 2 = 0b10#2 ∧ (0x28000 : ReqWord).getLsbD 15 = true := by decide
theorem witness_CommandByteIsInjective : cmd {} 0x7F .read = cmd {} 0x7F .read ∧ cmd {} 0x7F .read = 0xFF ∧
    cmd {} 0x7F .write = 0xFE := by decide
theorem witness_AssemblerLinesAssemble : AsmLine.assemble (.frame 0xFF []) = some [0x000FF] ∧ 0xFF < 256 ∧
    ∃ d ∈ [0, 256], 256 ≤ d := by decide

/-! ### Whose turn it is -/

theorem witness_IdleBlockWaitsForARequest : State.reset.phase = .idle ∧ State.reset.requests = [] := by decide
theorem witness_StepRunsTheDecodedRequest :
    ((offer 0x10300 prompt).phase = .idle ∧ (offer 0x10300 prompt).requests = 0x10300 :: [] ∧
      decode 0x10300 = .ok (.rdreg 0x03)) ∧
    (setPhase (.waitTx (.rdreg 0x03) 1 0) prompt).phase = .waitTx (.rdreg 0x03) 1 0 ∧
    (setPhase (.waitDone (.rdreg 0x03) 1 0) prompt).phase = .waitDone (.rdreg 0x03) 1 0 := by decide
theorem witness_RefusalsComeInOrder :
    ((offer 0x3FFFF State.reset).phase = .idle ∧ (offer 0x3FFFF State.reset).requests = 0x3FFFF :: [] ∧
      decode 0x3FFFF = .error .rddiagHold) ∧
    ((offer 0x000A5 State.reset).requests = encode (BusOp.transferR 0xA5).instr :: [] ∧
      (offer 0x000A5 State.reset).configured = false) ∧
    (setPhase (.waitTx (.transferR 0xA5) 0 0) prompt).phase ≠ .idle := by decide
theorem witness_TransfersNeedAConfiguredBus : State.reset.phase = .idle ∧ State.reset.configured = false := by
  decide
theorem witness_OnlyRddiagRunsBeforeBoot :
    ((offer 0x22000 State.reset).phase = .idle ∧ (offer 0x22000 State.reset).configured = false ∧
      (offer 0x22000 State.reset).requests = encode (.wrreg 0x20 0x00) :: []) ∧
    (offer 0x30000 State.reset).requests = encode .rddiag :: [] := by decide
/-- In either wait: the flag seen, and a false sample that is not the last (`lastSample` below has the last). -/
theorem witness_WaitsAreLeftBySamplesOnly : ∃ t u v w,
    step (setPhase (.waitTx (.wrreg 0x20 0x01) 0 0) prompt) = .next t ∧ prompt.upcoming .txReady 0 = true ∧
    step (setPhase (.waitDone (.wrreg 0x20 0x01) 1 0) prompt) = .next u ∧ prompt.upcoming .xferComplete 0 = true ∧
    step (setPhase (.waitTx (.transferR 1) 0 Config.platform.spinMax) (start [false] [false] [])) = .next v ∧
    step (setPhase (.waitDone (.transferR 1) 0 Config.platform.spinMax) (start [false] [false] [])) = .next w ∧
    (start [false] [false] []).upcoming .txReady 0 = false ∧
    (start [false] [false] []).upcoming .xferComplete 0 = false ∧
    Config.platform.spinMax + 1 ≠ Config.platform.spinMax :=
  ⟨_, _, _, _, rfl, rfl, rfl, rfl, rfl, rfl, rfl, rfl, by omega⟩

/-! ### The sequencer's actions -/

theorem witness_AcceptedRequestAssertsChipSelect : prompt.phase = .idle ∧ prompt.configured = true ∧
    prompt.cs = .released ∧ (csAssert prompt).phase = .idle ∧ (csAssert prompt).configured = true ∧
    (csAssert prompt).cs = .asserted := by decide
theorem witness_TransmitReadyPushesTheByte :
    (setPhase (.waitTx (.rdreg 0x03) 0 0) prompt).phase = .waitTx (.rdreg 0x03) 0 0 ∧
    (setPhase (.waitTx (.rdreg 0x03) 0 0) prompt).upcoming .txReady 0 = true := ⟨rfl, rfl⟩

/-- A waiting state whose next answers are false, at the sample before the last allowed one. -/
def lastSample (p : Nat → Phase) : State :=
  setPhase (p (Config.platform.spinMax - 1)) (csAssert (start [false] [false] []))

theorem last_sample : Config.platform.spinMax - 1 + 1 = Config.platform.spinMax := by
  have := platform_pos; omega

theorem witness_FalseSamplesAreCounted :
    (lastSample (.waitTx (.transferR 1) 0)).phase = .waitTx (.transferR 1) 0 (Config.platform.spinMax - 1) ∧
    (lastSample (.waitTx (.transferR 1) 0)).upcoming .txReady 0 = false ∧
    (lastSample (.waitDone (.transferR 1) 0)).phase = .waitDone (.transferR 1) 0 (Config.platform.spinMax - 1) ∧
    (lastSample (.waitDone (.transferR 1) 0)).upcoming .xferComplete 0 = false ∧
    Config.platform.spinMax - 1 + 1 = Config.platform.spinMax := ⟨rfl, rfl, rfl, rfl, last_sample⟩
/-- The other clauses: a sample that is not the last, and a step from a legal state. -/
theorem witness_FalseSamplesAreCounted_again :
    Config.platform.spinMax + 1 ≠ Config.platform.spinMax ∧
    (setPhase (.waitTx (.transferR 1) 0 Config.platform.spinMax) (start [false] [] [])).upcoming .txReady 0 = false ∧
    legalPhase Config.platform (lastSample (.waitTx (.transferR 1) 0)).phase ∧
    ∃ t, step (lastSample (.waitTx (.transferR 1) 0)) = .next t :=
  ⟨by omega, rfl, ⟨fun h => absurd h (by decide), by have := last_sample; omega⟩, ⟨_, rfl⟩⟩
/-- The last clauses of WaitsAreLeftBySamplesOnly, in both waits. -/
theorem witness_WaitsAreLeftBySamplesOnly_last :
    (∃ t, step (lastSample (.waitTx (.transferR 1) 0)) = .next t) ∧
    (∃ t, step (lastSample (.waitDone (.transferR 1) 0)) = .next t) ∧
    (lastSample (.waitTx (.transferR 1) 0)).upcoming .txReady 0 = false ∧
    (lastSample (.waitDone (.transferR 1) 0)).upcoming .xferComplete 0 = false ∧
    Config.platform.spinMax - 1 + 1 = Config.platform.spinMax := ⟨⟨_, rfl⟩, ⟨_, rfl⟩, rfl, rfl, last_sample⟩
theorem witness_TransferCompleteEndsTheTransfer :
    (setPhase (.waitDone (.rdreg 0x03) 1 0) (csAssert prompt)).phase = .waitDone (.rdreg 0x03) 1 0 ∧
    (setPhase (.waitDone (.rdreg 0x03) 1 0) (csAssert prompt)).cs = .asserted ∧
    (setPhase (.waitDone (.rdreg 0x03) 1 0) (csAssert prompt)).upcoming .xferComplete 0 = true ∧
    hasNext (.rdreg 0x03) 1 = false ∧ hasNext (.rdreg 0x03) 0 = true := ⟨rfl, rfl, rfl, rfl, rfl⟩
theorem witness_TimeoutOfTheLastPartEndsTheOperation :
    (lastSample (.waitTx (.wrreg 0x20 1) 1)).phase = .waitTx (.wrreg 0x20 1) 1 (Config.platform.spinMax - 1) ∧
    (lastSample (.waitTx (.wrreg 0x20 1) 1)).cs = .asserted ∧
    (lastSample (.waitTx (.wrreg 0x20 1) 1)).upcoming .txReady 0 = false ∧
    (lastSample (.waitDone (.transferH 1) 0)).cs = .asserted ∧
    (lastSample (.waitDone (.transferH 1) 0)).upcoming .xferComplete 0 = false ∧
    Config.platform.spinMax - 1 + 1 = Config.platform.spinMax ∧
    hasNext (.wrreg 0x20 1) 1 = false ∧ hasNext (.transferH 1) 0 = false :=
  ⟨rfl, rfl, rfl, rfl, rfl, last_sample, rfl, rfl⟩
theorem witness_TimeoutOfTheCommandPhaseGoesOn :
    (lastSample (.waitTx (.rdreg 0x03) 0)).phase = .waitTx (.rdreg 0x03) 0 (Config.platform.spinMax - 1) ∧
    (lastSample (.waitTx (.rdreg 0x03) 0)).cs = .asserted ∧
    (lastSample (.waitTx (.rdreg 0x03) 0)).upcoming .txReady 0 = false ∧
    (lastSample (.waitDone (.wrreg 0x20 1) 0)).cs = .asserted ∧
    (lastSample (.waitDone (.wrreg 0x20 1) 0)).upcoming .xferComplete 0 = false ∧
    Config.platform.spinMax - 1 + 1 = Config.platform.spinMax ∧
    twoParts (.rdreg 0x03) = true ∧ twoParts (.wrreg 0x20 1) = true :=
  ⟨rfl, rfl, rfl, rfl, rfl, last_sample, rfl, rfl⟩
theorem witness_RddiagReadsTheRecordedCause : State.reset.phase = .idle ∧
    (timeoutExit (tiny .keep .keep) .txPathFull false prompt).diag = some .txPathFull ∧
    (timeoutExit (tiny .keep .keep) .transferIncomplete false prompt).diag = some .transferIncomplete ∧
    (tiny .keep .keep).diagOnSuccess = .keep ∧ prompt.upcoming .xferComplete 0 = true :=
  ⟨rfl, rfl, rfl, rfl, rfl⟩
theorem witness_DiagnosticCodes : (tiny .keep .clear).diagOnSuccess = .clear ∧
    prompt.upcoming .xferComplete 0 = true ∧ 0 + 1 = (tiny .keep .clear).spinMax ∧
    (start [false] [false] []).upcoming .txReady 0 = false ∧
    (start [false] [false] []).upcoming .xferComplete 0 = false := ⟨rfl, rfl, rfl, rfl, rfl⟩
/-- A next state of each kind: RDDIAG, accepting, and a sample. -/
theorem witness_InstructionsLeaveTheRestAlone : (∃ t, exec .rddiag prompt = .next t) ∧
    (∃ t, exec (.transferH 7) prompt = .next t) ∧
    (∃ t, exec (.transferR 7) (setPhase (.waitTx (.transferR 7) 0 0) prompt) = .next t ∧ t.phase ≠ .idle) :=
  ⟨⟨_, rfl⟩, ⟨_, rfl⟩, ⟨_, rfl, by decide⟩⟩

/-! ### Whole operations -/

theorem witness_TransferReleaseExchangesOneByte : prompt.phase = .idle ∧ prompt.configured = true ∧
    Answered Config.platform { tx := 0xA5, hold := false } 1 1 prompt := ⟨rfl, rfl, prompt_answered _ _⟩
theorem witness_TransferHoldExchangesOneByte : prompt.phase = .idle ∧ prompt.configured = true ∧
    Answered Config.platform { tx := 0xA5, hold := true } 1 1 prompt := ⟨rfl, rfl, prompt_answered _ _⟩
theorem witness_RegisterReadIsTwoTransfersInOneFrame : prompt.phase = .idle ∧ prompt.configured = true ∧
    Answered Config.platform { tx := cmd Config.platform.layout 0x03 .read, hold := true } 1 1 prompt ∧
    Answered Config.platform (accessDataPhase Config.platform.dummyByte) 1 1
      (answeredEnd Config.platform { tx := cmd Config.platform.layout 0x03 .read, hold := true } 1 1 prompt) :=
  ⟨rfl, rfl, prompt_answered _ _, prompt_answered_again _ _ _ rfl⟩
theorem witness_RegisterWriteIsTwoTransfersInOneFrame : prompt.phase = .idle ∧ prompt.configured = true ∧
    Answered Config.platform { tx := cmd Config.platform.layout 0x20 .write, hold := true } 1 1 prompt ∧
    Answered Config.platform (accessDataPhase 0x01) 1 1
      (answeredEnd Config.platform { tx := cmd Config.platform.layout 0x20 .write, hold := true } 1 1 prompt) :=
  ⟨rfl, rfl, prompt_answered _ _, prompt_answered_again _ _ _ rfl⟩
theorem witness_TransferTimesOutWaitingForTransmitReady : (deaf Config.platform).phase = .idle ∧
    (deaf Config.platform).configured = true ∧ NeverReady Config.platform (deaf Config.platform) :=
  ⟨rfl, rfl, deaf_neverReady _⟩
theorem witness_TransferTimesOutWaitingForTransferComplete : (stuck Config.platform).phase = .idle ∧
    (stuck Config.platform).configured = true ∧
    NeverComplete Config.platform { tx := 0x55, hold := true } 1 (stuck Config.platform) :=
  ⟨rfl, rfl, stuck_neverComplete _ _⟩
theorem witness_LostCommandByteLetsTheDataByteLead : twoParts (.rdreg 0x03) = true ∧
    (deaf Config.platform).phase = .idle ∧ (deaf Config.platform).configured = true ∧
    (deaf Config.platform).cs = .released ∧ NeverReady Config.platform (deaf Config.platform) ∧
    Answered Config.platform (sub Config.platform (.rdreg 0x03) 1) 1 1
      (neverReadyEnd Config.platform (sub Config.platform (.rdreg 0x03) 0) (deaf Config.platform)) :=
  ⟨rfl, rfl, rfl, rfl, deaf_neverReady _, deaf_then_answered _ _ _⟩
theorem witness_UnansweredCommandByteSplitsTheFrameUnderRelease (p : CsOnTimeout) :
    twoParts (.wrreg 0x20 1) = true ∧ (stuck (tiny p .keep)).cs = .released ∧
    NeverComplete (tiny p .keep) (sub (tiny p .keep) (.wrreg 0x20 1) 0) 1 (stuck (tiny p .keep)) ∧
    Answered (tiny p .keep) (sub (tiny p .keep) (.wrreg 0x20 1) 1) 1 1
      (neverCompleteEnd (tiny p .keep) (sub (tiny p .keep) (.wrreg 0x20 1) 0) 1 (stuck (tiny p .keep))) :=
  ⟨rfl, rfl, stuck_neverComplete _ _, stuck_then_answered _ _ _⟩
/-- A command phase that is answered, and a data phase that is not, of either kind. -/
theorem witness_DataPhaseTimeoutDecidesTheCause :
    NeverReady (tiny .keep .keep) (transfer (tiny .keep .keep)
      { tx := cmd (tiny .keep .keep).layout 0x03 .read, hold := true } (start [true, false] [true] [])).2 ∧
    NeverComplete (tiny .keep .keep) (accessDataPhase (tiny .keep .keep).dummyByte) 1
      (transfer (tiny .keep .keep) { tx := cmd (tiny .keep .keep).layout 0x03 .read, hold := true }
        (start [true, true] [true, false] [])).2 ∧
    NeverReady (tiny .keep .keep) (transfer (tiny .keep .keep)
      { tx := cmd (tiny .keep .keep).layout 0x20 .write, hold := true } (start [true, false] [true] [])).2 ∧
    NeverComplete (tiny .keep .keep) (accessDataPhase 0x01) 1
      (transfer (tiny .keep .keep) { tx := cmd (tiny .keep .keep).layout 0x20 .write, hold := true }
        (start [true, true] [true, false] [])).2 := by
  refine ⟨?_, ?_, ?_, ?_⟩
  · intro j h; obtain rfl : j = 0 := by simpa [tiny] using h
    rfl
  · exact ⟨(seenAt_one _ _).2 rfl, le_refl 1, fun j h => by
      obtain rfl : j = 0 := by simpa [tiny] using h
      rfl⟩
  · intro j h; obtain rfl : j = 0 := by simpa [tiny] using h
    rfl
  · exact ⟨(seenAt_one _ _).2 rfl, le_refl 1, fun j h => by
      obtain rfl : j = 0 := by simpa [tiny] using h
      rfl⟩
theorem witness_TransferHasThreeOutcomes : NeverReady (tiny .keep .keep) (deaf (tiny .keep .keep)) ∧
    NeverComplete (tiny .keep .keep) { tx := 0x55, hold := false } 1 (stuck (tiny .keep .keep)) ∧
    Answered (tiny .keep .keep) { tx := 0x55, hold := false } 1 1 prompt :=
  ⟨deaf_neverReady _, stuck_neverComplete _ _, prompt_answered _ _⟩
theorem witness_StepsReachTheProcedure : (offer 0x10300 prompt).phase = .idle ∧
    (offer 0x10300 prompt).requests = encode (.rdreg 0x03) :: [] ∧
    (needsBus (.rdreg 0x03) = true → (offer 0x10300 prompt).configured = true) := by decide

/-! ### Invariants and whole-machine rules -/

/-- A state in the middle of a register read meets the invariant. -/
def midway : State :=
  setPhase (.waitDone (.rdreg 0x03) 1 0)
    { csAssert prompt with hist := [.frameStart, .byteOut 0x07, .byteIn 0xAA, .byteOut 0x00] }

theorem midway_inv : Inv Config.platform midway :=
  { phase_legal := ⟨fun _ => rfl, platform_pos⟩
    busy_configured := fun _ => rfl
    busy_selected := fun _ => rfl
    wire := ⟨.pushed, by decide, by decide⟩
    awaiting_pushed := fun _ _ _ _ => by decide
    response_idle := fun h => absurd rfl h
    response_reported := fun _ h => by cases h }

theorem witness_EveryOperationReturnsToIdle : Inv Config.platform midway ∧ midway.phase ≠ .idle :=
  ⟨midway_inv, by decide⟩
theorem witness_StepKeepsTheInvariant : Inv Config.platform midway ∧ ∃ t, step midway = .next t :=
  ⟨midway_inv, ⟨_, rfl⟩⟩
theorem witness_NoStepWritesTheConfiguredFlag : ∃ t, step midway = .next t := ⟨_, rfl⟩
theorem witness_HistoryOnlyGrows : ∃ t, step midway = .next t ∧ t.hist ≠ midway.hist := by
  refine ⟨_, rfl, fun h => ?_⟩
  have := congrArg List.length h
  revert this
  decide
theorem witness_OnlyTimeoutsAndClearingWriteTheCause :
    ∃ t, step (lastSample (.waitTx (.transferR 1) 0)) = .next t ∧ t.diag = some .txPathFull := by
  have h : sampleTx Config.platform (.transferR 1) 0 (Config.platform.spinMax - 1)
      (beginStep (lastSample (.waitTx (.transferR 1) 0))) = _ := sampleTx_timeout _ _ rfl last_sample
  refine ⟨_, rfl, ?_⟩
  show (sampleTx Config.platform (.transferR 1) 0 (Config.platform.spinMax - 1)
      (beginStep (lastSample (.waitTx (.transferR 1) 0)))).diag = _
  rw [h]
  simp [timeoutExit_eq]
theorem witness_ResponsesAreDeliveredOnce : ∃ t, step (offer 0x30000 prompt) = .next t ∧ t.resp ≠ none :=
  ⟨_, rfl, by decide⟩
theorem witness_RequestsAreTakenInOrder :
    ∃ t, step (offer 0x000A5 (offer 0x30000 prompt)) = .next t ∧ t.requests = [0x30000] := ⟨_, rfl, rfl⟩
theorem witness_OnlyTheCauseTellsSentinelFromData :
    Answered (tiny .keep .clear) { tx := 0x00, hold := false } 1 1 (start [true] [true] [0xFF]) ∧
    receivedByte { tx := 0x00, hold := false } 1 1 (start [true] [true] [0xFF]) = 0xFF ∧
    (tiny .keep .keep).diagOnSuccess = .keep ∧ (tiny .keep .clear).diagOnSuccess = .clear ∧
    ¬ ∃ t1 t2, Answered (tiny .keep .clear) { tx := 0x00, hold := false } t1 t2 (deaf (tiny .keep .clear)) := by
  refine ⟨answered_at_once rfl rfl, rfl, rfl, rfl, ?_⟩
  rintro ⟨t1, t2, ⟨h1, h, -⟩, ht, -⟩
  rw [deaf_neverReady (tiny .keep .clear) (t1 - 1) (by omega)] at h
  cases h
theorem witness_RegisterAccessIsOneFrame : twoParts (.rdreg 0x03) = true ∧
    Answered (tiny .keep .keep) (sub (tiny .keep .keep) (.rdreg 0x03) 0) 1 1 prompt ∧
    Answered (tiny .keep .keep) (sub (tiny .keep .keep) (.rdreg 0x03) 1) 1 1
      (answeredEnd (tiny .keep .keep) (sub (tiny .keep .keep) (.rdreg 0x03) 0) 1 1 prompt) ∧
    prompt.cs = .released := ⟨rfl, prompt_answered _ _, prompt_answered_again _ _ _ rfl, rfl⟩
/-- Inside an open frame (vector A8). -/
theorem witness_RegisterAccessIsOneFrame_open :
    Answered (tiny .keep .keep) (sub (tiny .keep .keep) (.rdreg 0x03) 0) 1 1 (csAssert prompt) ∧
    Answered (tiny .keep .keep) (sub (tiny .keep .keep) (.rdreg 0x03) 1) 1 1
      (answeredEnd (tiny .keep .keep) (sub (tiny .keep .keep) (.rdreg 0x03) 0) 1 1 (csAssert prompt)) ∧
    (csAssert prompt).cs = .asserted ∧ framesOf (csAssert prompt).hist = [] ++ [[]] :=
  ⟨answered_at_once rfl rfl, answered_at_once rfl rfl, rfl, rfl⟩

/-! ### The ports -/

theorem witness_PortsShowTheState : (respond (.byte 0x3C) prompt).resp = some (.byte 0x3C) ∧
    (respond .noValue prompt).resp = some .noValue ∧ prompt.configured = true ∧ State.reset.configured = false := by
  decide
theorem witness_TransmitDataPortIsTheBytePushed :
    ∃ t, step (setPhase (.waitTx (.transferR 0xA5) 0 0) prompt) = .next t ∧ t.hist = prompt.hist ++ [.byteOut 0xA5] :=
  ⟨_, rfl, rfl⟩
theorem witness_SerialClockIdlesLow : prompt.configured = true ∧ wireQuiet prompt.hist = true ∧
    State.reset.configured = false ∧ Answered (tiny .keep .keep) { tx := 0xA5, hold := false } 1 1 prompt ∧
    (∃ t, step (offer 0x000A5 prompt) = .next t) ∧ (offer 0x000A5 prompt).phase = .idle :=
  ⟨rfl, rfl, rfl, prompt_answered _ _, ⟨_, rfl⟩, rfl⟩

/-! ### The cause at the end of a register access -/

/-- The transfer that never sees transmit-ready ends in the state named for it. -/
theorem transfer_deaf (c : Config) (x : SubTransfer) : (transfer c x (deaf c)).2 = neverReadyEnd c x (deaf c) := by
  rw [transfer, waitFor_notSeen (deaf_neverReady c)]
  rfl

/-- A command phase that times out, or does not, before a data phase that is answered. -/
theorem witness_RegisterAccessEndsWithTheLastCause :
    twoParts (.rdreg 0x03) = true ∧
    NeverReady (tiny .keep .clear) (deaf (tiny .keep .clear)) ∧
    Answered (tiny .keep .clear) (sub (tiny .keep .clear) (.rdreg 0x03) 1) 1 1
      (transfer (tiny .keep .clear) (sub (tiny .keep .clear) (.rdreg 0x03) 0) (deaf (tiny .keep .clear))).2 ∧
    Answered (tiny .keep .clear) (sub (tiny .keep .clear) (.rdreg 0x03) 0) 1 1 prompt ∧
    Answered (tiny .keep .clear) (sub (tiny .keep .clear) (.rdreg 0x03) 1) 1 1
      (transfer (tiny .keep .clear) (sub (tiny .keep .clear) (.rdreg 0x03) 0) prompt).2 := by
  refine ⟨rfl, deaf_neverReady _, ?_, prompt_answered _ _, answered_at_once rfl rfl⟩
  rw [transfer_deaf]
  exact deaf_then_answered _ _ _
/-- A command byte pushed and not answered, and data phases that time out, of either kind. -/
theorem witness_RegisterAccessEndsWithTheLastCause_timeouts :
    NeverComplete (tiny .keep .clear) (sub (tiny .keep .clear) (.wrreg 0x20 1) 0) 1 (stuck (tiny .keep .clear)) ∧
    Answered (tiny .keep .clear) (sub (tiny .keep .clear) (.wrreg 0x20 1) 1) 1 1
      (transfer (tiny .keep .clear) (sub (tiny .keep .clear) (.wrreg 0x20 1) 0) (stuck (tiny .keep .clear))).2 ∧
    NeverReady (tiny .keep .clear)
      (transfer (tiny .keep .clear) (sub (tiny .keep .clear) (.wrreg 0x20 1) 0) (start [true, false] [true] [])).2 ∧
    NeverComplete (tiny .keep .clear) (sub (tiny .keep .clear) (.wrreg 0x20 1) 1) 1
      (transfer (tiny .keep .clear) (sub (tiny .keep .clear) (.wrreg 0x20 1) 0) (start [true, true] [true, false] [])).2 := by
  refine ⟨stuck_neverComplete _ _, answered_at_once rfl rfl, ?_, (seenAt_one _ _).2 rfl, le_refl 1, ?_⟩
  · intro j h; obtain rfl : j = 0 := by simpa [tiny] using h
    rfl
  · intro j h; obtain rfl : j = 0 := by simpa [tiny] using h
    rfl

end Sys2Proof.Tests
end

section
/-! The bits of a byte on the wire (R54, R112): what the two sides sample in its eight pulses, and the byte that a series
of sampled bits makes. -/

namespace Sys2Proof.Machine

/-- The instant at which bit `i` is sampled: the trailing edge, where the clock is back at its idle level (R33). -/
def sampledBit (tx rx : Byte) (i : Nat) : WireSample :=
  { sck := .low, mosi := tx.getLsbD i, miso := rx.getLsbD i, sampled := true }

theorem sampledInstants_pulse (tx rx : Byte) (i : Nat) :
    sampledInstants (pulse tx rx i) = [sampledBit tx rx i] := rfl

theorem sampledInstants_waveform (tx rx : Byte) :
    sampledInstants (waveform tx rx) = Config.bitOrder.map (sampledBit tx rx) := by
  rw [sampledInstants, waveform, List.filter_flatMap, List.map_eq_flatMap]
  exact congrArg (List.flatMap · Config.bitOrder) (funext (sampledInstants_pulse tx rx))

theorem bitOrder_getElem? {i : Nat} (hi : i < 8) : Config.bitOrder[i]? = some (7 - i) := by
  interval_cases i <;> rfl

theorem assembleByte_concat (bits : List Bool) (b : Bool) :
    assembleByte (bits ++ [b]) = (assembleByte bits <<< 1) ||| BitVec.setWidth 8 (BitVec.ofBool b) := by
  simp [assembleByte]

/-- The bit sampled last is bit 0, and each one before it stands one place higher. -/
theorem assembleByte_getLsbD (bits : List Bool) {i : Nat} (hi : i < 8) :
    (assembleByte bits).getLsbD i = bits.reverse.getD i false := by
  induction bits using List.reverseRecOn generalizing i with
  | nil => simp [assembleByte]
  | append_singleton bits b ih =>
    rw [assembleByte_concat, List.reverse_concat]
    cases i with
    | zero => simp
    | succ j =>
      have hj : j < 8 := by omega
      simpa [hi, hj] using ih hj

theorem assembleByte_bitOrder (v : Byte) : assembleByte (Config.bitOrder.map v.getLsbD) = v := by
  apply BitVec.eq_of_getLsbD_eq
  intro i hi
  rw [assembleByte_getLsbD _ hi]
  interval_cases i <;> rfl

theorem receivedByTransceiver_waveform (tx rx : Byte) : receivedByTransceiver (waveform tx rx) = tx := by
  rw [receivedByTransceiver, sampledInstants_waveform, List.map_map]
  exact assembleByte_bitOrder tx

theorem receivedByPeripheral_waveform (tx rx : Byte) : receivedByPeripheral (waveform tx rx) = rx := by
  rw [receivedByPeripheral, sampledInstants_waveform, List.map_map]
  exact assembleByte_bitOrder rx

/-- Settles O47: one sampled instant per pulse, in the order of the bits, and shifting them in gives the byte back. -/
theorem bytesCrossMostSignificantBitFirst : Obligations.BytesCrossMostSignificantBitFirst := by
  intro tx rx
  refine ⟨receivedByTransceiver_waveform tx rx, receivedByPeripheral_waveform tx rx, ?_, ?_⟩
  · rw [sampledInstants_waveform, List.length_map]
    rfl
  · intro i hi
    rw [sampledInstants_waveform, List.getElem?_map, bitOrder_getElem? hi]
    rfl

end Sys2Proof.Machine
end

section
/-! The request word's four fields as digits of a number, and packing against taking apart (R70, R71). -/

namespace Sys2Proof

/-- The low word of an append fills the digits below the high word's. -/
theorem toNat_append_eq_add {m n : Nat} (x : BitVec m) (y : BitVec n) :
    (x ++ y).toNat = x.toNat * 2 ^ n + y.toNat := by
  rw [BitVec.toNat_append, ← Nat.shiftLeft_add_eq_or_of_lt y.isLt, Nat.shiftLeft_eq]

theorem pack_toNat (f : ReqFields) :
    f.pack.toNat = f.op.code.toNat * 2 ^ 16 + f.h.toNat * 2 ^ 15 + f.a.toNat * 2 ^ 8 + f.d.toNat := by
  simp only [ReqFields.pack, toNat_append_eq_add, BitVec.toNat_ofBool]
  omega

@[simp] theorem fields_pack (f : ReqFields) : ReqWord.fields f.pack = f := by
  rw [ReqWord.fields, pack_op, pack_h, pack_a, pack_d]

/-- The code of a word's operation is the word's two highest bits (R71). -/
theorem op_code_bits (w : ReqWord) :
    (ReqWord.op w).code.getLsbD 0 = w.getLsbD 16 ∧ (ReqWord.op w).code.getLsbD 1 = w.getLsbD 17 := by
  rw [ReqWord.op]
  cases w.getLsbD 17 <;> cases w.getLsbD 16 <;> exact ⟨rfl, rfl⟩

@[simp] theorem pack_fields (w : ReqWord) : (ReqWord.fields w).pack = w := by
  apply BitVec.eq_of_getLsbD_eq
  intro i hi
  rw [pack_getLsbD]
  split_ifs with h8 h15 h16
  · simp [ReqWord.fields, ReqWord.d, h8]
  · simp [ReqWord.fields, ReqWord.a, show i - 8 < 7 by omega, show 8 + (i - 8) = i by omega]
  · obtain rfl : i = 15 := by omega
    rfl
  · obtain ⟨hlow, hhigh⟩ := op_code_bits w
    obtain rfl | rfl : i = 16 ∨ i = 17 := by omega
    · exact hlow
    · exact hhigh

/-- Well-formed fields are some operation's, which their word decodes to. -/
theorem exists_instr_of_wellFormed {f : ReqFields} (h : f.wellFormed = true) :
    ∃ i : Instr, i.fields = f ∧ decode f.pack = .ok i := by
  obtain ⟨i, hi⟩ := (decode_ok_iff_wellFormed f).2 h
  exact ⟨i, fields_of_decode hi, by rw [decode, fields_pack, hi]⟩

/-- Settles O1: the fields are the word's digits, each is read back from its place, and well-formed fields are those of
the operation that their code and hold flag name. -/
theorem requestWordPacksFourFields : Obligations.RequestWordPacksFourFields := by
  refine ⟨pack_toNat, ⟨rfl, rfl, rfl, rfl⟩, pack_fields, fields_pack, ?_⟩
  intro f hf
  obtain ⟨i, rfl, hdecode⟩ := exists_instr_of_wellFormed hf
  rw [hdecode]
  cases i <;> rfl

end Sys2Proof
end

section
/-! The command byte: its read bit, and the placed address under it (R77). -/

namespace Sys2Proof.Machine

@[simp] theorem cmd_write (l : CmdLayout) (a : RegAddr) : cmd l a .write = l.place a := BitVec.or_zero

theorem cmd_read (l : CmdLayout) (a : RegAddr) : cmd l a .read = l.place a ||| (1#8 <<< l.rpos.val) := rfl

theorem cmd_getLsbD_rpos (l : CmdLayout) (a : RegAddr) (rw : Rw) :
    (cmd l a rw).getLsbD l.rpos.val = decide (rw = .read) := by
  cases rw
  case read => simp [cmd_read, l.rpos.isLt]
  case write => rw [cmd_write, l.place_clear]; rfl

/-- A read and a write of one address differ in the read bit only. -/
theorem cmd_getLsbD_of_ne (l : CmdLayout) (a : RegAddr) (rw : Rw) {i : Nat} (hi : i ≠ l.rpos.val) :
    (cmd l a rw).getLsbD i = (l.place a).getLsbD i := by
  cases rw
  case read =>
    have hbit : (1#8 <<< l.rpos.val).getLsbD i = false := by
      simp [← BitVec.twoPow_eq, Ne.symm hi]
    rw [cmd_read, BitVec.getLsbD_or, hbit, Bool.or_false]
  case write => rw [cmd_write]

/-- The command byte determines the placed address: the read bit is clear there, and every other bit is the byte's. -/
theorem place_eq_of_cmd_eq {l : CmdLayout} {a a' : RegAddr} {rw rw' : Rw} (h : cmd l a rw = cmd l a' rw') :
    l.place a = l.place a' := by
  apply BitVec.eq_of_getLsbD_eq
  intro i _
  by_cases hi : i = l.rpos.val
  · rw [hi, l.place_clear, l.place_clear]
  · rw [← cmd_getLsbD_of_ne l a rw hi, h, cmd_getLsbD_of_ne l a' rw' hi]

theorem rw_eq_of_cmd_eq {l : CmdLayout} {a a' : RegAddr} {rw rw' : Rw} (h : cmd l a rw = cmd l a' rw') :
    rw = rw' := by
  have hread : rw = .read ↔ rw' = .read := by
    rw [← decide_eq_decide, ← cmd_getLsbD_rpos l a, h, cmd_getLsbD_rpos]
  cases rw
  case read => exact (hread.1 rfl).symm
  case write =>
    cases rw'
    case read => exact hread.2 rfl
    case write => rfl

/-- Settles O6: the read bit tells the discriminator, and the other bits the placed address. -/
theorem commandByteIsInjective : Obligations.CommandByteIsInjective := by
  intro l a a' rw rw'
  refine ⟨l.place_clear a, l.place_injective a a', cmd_write l a, cmd_read l a, ?_, ?_⟩
  · rw [cmd_getLsbD_rpos, decide_eq_true_iff]
  · intro h
    exact ⟨l.place_injective a a' (place_eq_of_cmd_eq h), rw_eq_of_cmd_eq h⟩

end Sys2Proof.Machine
end

section
/-! The start and the normal end of a transfer, as exact next states (R101, R102, R106, R107). -/

namespace Sys2Proof.Machine

/-! ## The meaning of the instruction in progress, one equation a case (R116) -/

theorem exec_instr (op : BusOp) (s : State) : exec op.instr s = busOp Config.platform op s := by
  rw [exec_eq_execAt, execAt_instr]

theorem exec_instr_unconfigured {s : State} (op : BusOp) (hp : s.phase = .idle) (hc : s.configured = false) :
    exec op.instr s = .refused .notConfigured := by
  rw [exec_instr]
  simp [busOp, hp, hc]

theorem exec_instr_idle {s : State} (op : BusOp) (hp : s.phase = .idle) (hc : s.configured = true) :
    exec op.instr s = .next (accept op s) := by
  rw [exec_instr, busOp_idle op hp hc]

theorem exec_instr_waitTx {s : State} {op : BusOp} {k : Fin 2} {n : Nat} (hp : s.phase = .waitTx op k n) :
    exec op.instr s = .next (sampleTx Config.platform op k n s) := by
  rw [exec_instr, busOp_waitTx _ hp]

theorem exec_instr_waitDone {s : State} {op : BusOp} {k : Fin 2} {n : Nat} (hp : s.phase = .waitDone op k n) :
    exec op.instr s = .next (sampleDone Config.platform op k n s) := by
  rw [exec_instr, busOp_waitDone _ hp]

/-- Settles O13: Idle checks the configured flag before it accepts. -/
theorem transfersNeedAConfiguredBus : Obligations.TransfersNeedAConfiguredBus := by
  intro op s hp hc
  exact exec_instr_unconfigured op hp hc

/-! ## Entering the wait for transmit-ready (R102) -/

theorem setPhase_csAssert_of_released {s : State} (h : s.cs = .released) (p : Phase) :
    setPhase p (csAssert s) = { s with cs := .asserted, phase := p, hist := s.hist ++ [.frameStart] } := by
  rw [csAssert_eq, h]
  rfl

theorem csAssert_of_asserted {s : State} (h : s.cs = .asserted) : csAssert s = s := by
  simp [csAssert, h]

theorem setPhase_csAssert_of_asserted {s : State} (h : s.cs = .asserted) (p : Phase) :
    setPhase p (csAssert s) = { s with phase := p } := by
  rw [csAssert_of_asserted h]
  rfl

/-- Settles O16: acceptance and the second sub-transfer both assert chip-select and enter the wait. -/
theorem acceptedRequestAssertsChipSelect : Obligations.AcceptedRequestAssertsChipSelect := by
  refine ⟨fun op s hp hc => ?_, fun op k r s hnext => ?_⟩
  · rw [exec_instr_idle op hp hc, accept]
    exact ⟨fun h => by rw [setPhase_csAssert_of_released h], fun h => by rw [setPhase_csAssert_of_asserted h]⟩
  · rw [nextPart_of_next hnext]
    exact ⟨fun h => setPhase_csAssert_of_released h _, fun h => setPhase_csAssert_of_asserted h _⟩

/-! ## The end after transfer-complete (R106, R107) -/

/-- The received byte read, chip-select released unless held, and the cause treated. -/
theorem successExit_readRxData_sample {s : State} (h : s.cs = .asserted) (c : Config) (x : SubTransfer) :
    successExit c x (readRxData (sample .xferComplete s).2).2 =
      { s with
        cs := if x.hold then s.cs else .released
        diag := diagAfterSuccess c s.diag
        hist := s.hist ++ [.byteIn s.upcomingByte] ++ if x.hold then [] else [.frameEnd]
        env := (s.env.afterSample .xferComplete).afterRead } := by
  rw [successExit_eq, readRxData_cs, sample_cs, h]
  rfl

/-- Settles O19: the last sub-transfer responds after the normal end, and the first, which holds, leaves chip-select
asserted for the next wait. -/
theorem transferCompleteEndsTheTransfer : Obligations.TransferCompleteEndsTheTransfer := by
  intro op k n s hp hcs hseen
  rw [exec_instr_waitDone hp, sampleDone_complete _ op k n hseen, successExit_readRxData_sample hcs]
  refine ⟨fun hlast => ?_, fun hnext => ?_⟩
  · rw [nextPart_of_last hlast, hcs]
    rfl
  · obtain ⟨-, hhold, -⟩ := hasNext_spec Config.platform hnext
    simp only [nextPart_of_next hnext, hhold, if_true, List.append_nil]
    refine congrArg Host.Outcome.next (setPhase_csAssert_of_asserted ?_ _)
    exact hcs

end Sys2Proof.Machine
end

section
/-! Which actions push a byte: the sample that sees transmit-ready, and no other (R104). -/

namespace Sys2Proof.Machine

/-! ## Going on without a byte pushed -/

/-- From `s` to `t` the history grows, and no byte is pushed. -/
def GrowsWithoutByteOut (s t : State) : Prop :=
  ∃ es, t.hist = s.hist ++ es ∧ ∀ v, BusEvent.byteOut v ∉ es

theorem growsWithoutByteOut_of_hist_eq {s t : State} (h : t.hist = s.hist) : GrowsWithoutByteOut s t :=
  ⟨[], by simp [h], by simp⟩

theorem GrowsWithoutByteOut.trans {s t u : State} (h₁ : GrowsWithoutByteOut s t) (h₂ : GrowsWithoutByteOut t u) :
    GrowsWithoutByteOut s u := by
  obtain ⟨es₁, ht, hes₁⟩ := h₁
  obtain ⟨es₂, hu, hes₂⟩ := h₂
  exact ⟨es₁ ++ es₂, by rw [hu, ht, List.append_assoc], fun v => by simp [hes₁ v, hes₂ v]⟩

theorem byteOut_not_mem_frameOpening (v : Byte) (cs : ChipSelect) : BusEvent.byteOut v ∉ frameOpening cs := by
  cases cs <;> simp [frameOpening]

theorem byteOut_not_mem_frameClosing (v : Byte) (cs : ChipSelect) : BusEvent.byteOut v ∉ frameClosing cs := by
  cases cs <;> simp [frameClosing]

theorem csAssert_growsWithoutByteOut (s : State) : GrowsWithoutByteOut s (csAssert s) := by
  rw [csAssert_eq]
  exact ⟨frameOpening s.cs, rfl, fun v => byteOut_not_mem_frameOpening v s.cs⟩

theorem readRxData_growsWithoutByteOut (s : State) : GrowsWithoutByteOut s (readRxData s).2 :=
  ⟨[.byteIn s.upcomingByte], rfl, by simp⟩

theorem successExit_growsWithoutByteOut (c : Config) (x : SubTransfer) (s : State) :
    GrowsWithoutByteOut s (successExit c x s) := by
  rw [successExit_eq]
  refine ⟨_, rfl, fun v => ?_⟩
  cases x.hold
  case false => exact byteOut_not_mem_frameClosing v s.cs
  case true => exact List.not_mem_nil

theorem timeoutExit_growsWithoutByteOut (c : Config) (cause : Cause) (hold : Bool) (s : State) :
    GrowsWithoutByteOut s (timeoutExit c cause hold s) := by
  rw [timeoutExit_eq]
  refine ⟨_, rfl, fun v => ?_⟩
  cases Safety.timeoutReleases c hold
  case false => exact List.not_mem_nil
  case true => exact byteOut_not_mem_frameClosing v s.cs

theorem nextPart_growsWithoutByteOut (op : BusOp) (k : Fin 2) (r : Byte) (s : State) :
    GrowsWithoutByteOut s (nextPart op k r s) := by
  obtain ⟨-, h⟩ | ⟨-, h⟩ := nextPart_cases op k r s <;> rw [h]
  · exact csAssert_growsWithoutByteOut s
  · exact growsWithoutByteOut_of_hist_eq rfl

/-! ## The sequencer's actions -/

/-- A wait that runs out pushes nothing, whatever follows it. -/
theorem timeout_growsWithoutByteOut (c : Config) (op : BusOp) (k : Fin 2) (cause : Cause) (f : Flag) (s : State) :
    GrowsWithoutByteOut s
      (nextPart op k Config.sentinel (timeoutExit c cause (sub c op k).hold (sample f s).2)) :=
  have hsample : GrowsWithoutByteOut s (sample f s).2 := growsWithoutByteOut_of_hist_eq rfl
  (hsample.trans (timeoutExit_growsWithoutByteOut c cause _ _)).trans (nextPart_growsWithoutByteOut op k _ _)

theorem sampleTx_growsWithoutByteOut {s : State} (c : Config) (op : BusOp) (k : Fin 2) (n : Nat)
    (h : s.upcoming .txReady 0 = false) : GrowsWithoutByteOut s (sampleTx c op k n s) := by
  by_cases hn : n + 1 = c.spinMax
  · rw [sampleTx_timeout op k h hn]
    exact timeout_growsWithoutByteOut c op k .txPathFull .txReady s
  · rw [sampleTx_again op k h hn]
    exact growsWithoutByteOut_of_hist_eq rfl

theorem sampleDone_growsWithoutByteOut (c : Config) (op : BusOp) (k : Fin 2) (n : Nat) (s : State) :
    GrowsWithoutByteOut s (sampleDone c op k n s) := by
  obtain h | ⟨-, h⟩ | ⟨-, h⟩ := sampleDone_cases c op k n s <;> rw [h]
  · have hread : GrowsWithoutByteOut s (readRxData (sample .xferComplete s).2).2 :=
      readRxData_growsWithoutByteOut (sample .xferComplete s).2
    exact (hread.trans (successExit_growsWithoutByteOut c _ _)).trans (nextPart_growsWithoutByteOut op k _ _)
  · exact growsWithoutByteOut_of_hist_eq rfl
  · exact timeout_growsWithoutByteOut c op k .transferIncomplete .xferComplete s

/-- A step that does not see transmit-ready while it waits for it pushes no byte. -/
theorem stepAt_growsWithoutByteOut {c : Config} {s t : State} (h : stepAt c s = .next t)
    (hunseen : ∀ op k n, s.phase = .waitTx op k n → s.upcoming .txReady 0 = false) :
    GrowsWithoutByteOut s t := by
  obtain ⟨-, -, rfl⟩ | ⟨w, rest, -, -, ⟨-, rfl⟩ | ⟨op, -, -, rfl⟩⟩ | ⟨op, k, n, hp, rfl⟩ | ⟨op, k, n, -, rfl⟩ :=
    stepAt_cases h
  · exact growsWithoutByteOut_of_hist_eq rfl
  · exact growsWithoutByteOut_of_hist_eq rfl
  · exact csAssert_growsWithoutByteOut { beginStep s with requests := rest }
  · exact sampleTx_growsWithoutByteOut (s := beginStep s) c op k n (hunseen op k n hp)
  · exact sampleDone_growsWithoutByteOut c op k n (beginStep s)

/-- Settles O17: the sample that sees transmit-ready pushes the byte, and every other step grows the history without
one. -/
theorem transmitReadyPushesTheByte : Obligations.TransmitReadyPushesTheByte := by
  refine ⟨fun op k n s hp hseen => ?_, fun s t hstep hunseen => ?_⟩
  · rw [exec_instr_waitTx hp, sampleTx_ready _ op k n hseen]
    rfl
  · rw [step_eq_stepAt] at hstep
    exact stepAt_growsWithoutByteOut hstep hunseen

end Sys2Proof.Machine
end

section
/-! RDDIAG's one word, and the recorded cause: its code, and what the sample that decides a wait writes (R140, R141). -/

namespace Sys2Proof

/-- A word decodes to an operation exactly when it is that operation's encoding. -/
theorem decode_eq_ok_iff {w : ReqWord} {i : Instr} : decode w = .ok i ↔ w = encode i := by
  constructor
  · intro h
    have hfields : i.fields = ReqWord.fields w := fields_of_decode h
    rw [encode, hfields, pack_fields]
  · rintro rfl
    rw [encode, decode, fields_pack, decode_fields]

theorem encode_rddiag : encode .rddiag = 0x30000 := by decide

end Sys2Proof

namespace Sys2Proof.Machine

/-! ## RDDIAG -/

/-- In Idle a response changes the response port and the reports only. -/
theorem respond_of_idle {s : State} (hp : s.phase = .idle) (r : Response) :
    respond r s = { s with resp := some r, reports := s.reports ++ [r] } := by
  rw [respond, ← hp]

theorem exec_rddiag_idle {s : State} (hp : s.phase = .idle) :
    exec .rddiag s = .next (respond (diagResponse s) s) := by
  rw [exec_eq_execAt, execAt_rddiag, rddiag, hp]

/-! ## The codes -/

/-- The largest code is TransferIncomplete's. -/
theorem diagCode_toNat_lt_three (d : Option Cause) : (diagCode d).toNat < 3 := by
  match d with
  | none => decide
  | some .txPathFull => decide
  | some .transferIncomplete => decide

theorem diagCode_ne_three (d : Option Cause) : diagCode d ≠ 0b11#2 := by
  intro h
  have hlt := diagCode_toNat_lt_three d
  rw [h] at hlt
  exact absurd hlt (by decide)

/-! ## The cause after the sample that ends a wait -/

theorem sampleDone_diag_of_complete {s : State} (c : Config) (op : BusOp) (k : Fin 2) (n : Nat)
    (h : s.upcoming .xferComplete 0 = true) : (sampleDone c op k n s).diag = diagAfterSuccess c s.diag := by
  rw [sampleDone_complete c op k n h, nextPart_diag, successExit_eq]
  rfl

theorem sampleTx_diag_of_timeout {c : Config} {s : State} (op : BusOp) (k : Fin 2) {n : Nat}
    (h : s.upcoming .txReady 0 = false) (hn : n + 1 = c.spinMax) :
    (sampleTx c op k n s).diag = some .txPathFull := by
  rw [sampleTx_timeout op k h hn, nextPart_diag, timeoutExit_eq]

theorem sampleDone_diag_of_timeout {c : Config} {s : State} (op : BusOp) (k : Fin 2) {n : Nat}
    (h : s.upcoming .xferComplete 0 = false) (hn : n + 1 = c.spinMax) :
    (sampleDone c op k n s).diag = some .transferIncomplete := by
  rw [sampleDone_timeout op k h hn, nextPart_diag, timeoutExit_eq]

/-! ## The statements -/

/-- Settles O22: RDDIAG has the one word that encodes it, answers the code of the cause, which is below three, and the
completing sample under Keep leaves the cause alone. -/
theorem rddiagReadsTheRecordedCause : Obligations.RddiagReadsTheRecordedCause := by
  refine ⟨fun w => ?_, fun s hp => ?_, fun s => ?_, rfl, fun s => ?_, fun c op k n s hkeep hseen => ?_⟩
  · rw [decode_eq_ok_iff, encode_rddiag]
  · rw [exec_rddiag_idle hp, respond_of_idle hp, diagResponse]
  · refine ⟨?_, ?_, ?_⟩ <;> intro hcause <;> rw [hcause] <;> rfl
  · rw [BitVec.toNat_setWidth_of_le (by decide)]
    exact diagCode_toNat_lt_three s.diag
  · rw [sampleDone_diag_of_complete c op k n hseen, diagAfterSuccess_keep hkeep]

/-- Settles O23: each cause has its code, and each wait's deciding sample writes the cause that the table names. -/
theorem diagnosticCodes : Obligations.DiagnosticCodes := by
  refine ⟨rfl, rfl, rfl, diagCode_ne_three, rfl, fun c op k n s hclear hseen => ?_,
    fun c op k n s hn => ⟨fun hunseen => ?_, fun hunseen => ?_⟩⟩
  · rw [sampleDone_diag_of_complete c op k n hseen, diagAfterSuccess_clear hclear]
    rfl
  · rw [sampleTx_diag_of_timeout op k hunseen hn]
    rfl
  · rw [sampleDone_diag_of_timeout op k hunseen hn]
    rfl

end Sys2Proof.Machine
end

section
/-! The exceptions: what a step refuses, and which samples lead out of a wait (R116, R153, R158). -/

namespace Sys2Proof.Machine

open Sys2Proof.Safety

/-! ## The machine's own step, one equation a turn -/

theorem step_reserved {s : State} {w : ReqWord} {rest : List ReqWord} {why : ReservedField}
    (hp : s.phase = .idle) (hr : s.requests = w :: rest) (hd : decode w = .error why) :
    step s = .refused (.reserved w why) := by
  rw [step_eq_stepAt, stepAt_reserved hp hr hd]

theorem step_offered {s : State} {i : Instr} {rest : List ReqWord}
    (hp : s.phase = .idle) (hr : s.requests = encode i :: rest) :
    step s = exec i { beginStep s with requests := rest } := by
  rw [step_eq_stepAt, exec_eq_execAt, stepAt_offered hp hr (decode_eq_ok_iff.2 rfl)]

theorem step_waitTx {s : State} {op : BusOp} {k : Fin 2} {n : Nat} (hp : s.phase = .waitTx op k n) :
    step s = .next (sampleTx Config.platform op k n (beginStep s)) := by
  rw [step_eq_stepAt, stepAt_waitTx hp]

theorem step_waitDone {s : State} {op : BusOp} {k : Fin 2} {n : Nat} (hp : s.phase = .waitDone op k n) :
    step s = .next (sampleDone Config.platform op k n (beginStep s)) := by
  rw [step_eq_stepAt, stepAt_waitDone hp]

/-! ## Refusals (R153) -/

/-- Outside Idle a step refuses nothing, and what is offered stays on the port. -/
theorem step_of_not_idle {s : State} (hp : s.phase ≠ .idle) : ∃ t, step s = .next t ∧ t.requests = s.requests := by
  cases hphase : s.phase with
  | idle => exact absurd hphase hp
  | waitTx op k n => exact ⟨_, step_waitTx hphase, sampleTx_requests _ op k n (beginStep s)⟩
  | waitDone op k n => exact ⟨_, step_waitDone hphase, sampleDone_requests _ op k n (beginStep s)⟩

/-- Settles O12: Idle finds a reserved word before it runs anything, a decoded bus operation then needs the bus
configured, and outside Idle there is no refusal. -/
theorem refusalsComeInOrder : Obligations.RefusalsComeInOrder := by
  refine ⟨fun s w rest why hp hr hd => step_reserved hp hr hd, fun s op rest hp hr hc => ?_,
    fun s hp => step_of_not_idle hp⟩
  rw [step_offered hp hr]
  exact exec_instr_unconfigured op hp hc

/-! ## Where a sample leads (R116) -/

/-- After a sample of transmit-ready: seen, on to the second wait; not seen, once more or the sub-transfer's end. -/
theorem sampleTx_phase (c : Config) (op : BusOp) (k : Fin 2) (n : Nat) (s : State) :
    (s.upcoming .txReady 0 = true → (sampleTx c op k n s).phase = .waitDone op k 0) ∧
    (s.upcoming .txReady 0 = false → n + 1 ≠ c.spinMax → (sampleTx c op k n s).phase = .waitTx op k (n + 1)) ∧
    (s.upcoming .txReady 0 = false → n + 1 = c.spinMax → PartEnded op k (sampleTx c op k n s)) := by
  refine ⟨fun hseen => ?_, fun hunseen hn => ?_, fun hunseen hn => ?_⟩
  · rw [sampleTx_ready c op k n hseen, setPhase_phase]
  · rw [sampleTx_again op k hunseen hn, setPhase_phase]
  · rw [sampleTx_timeout op k hunseen hn]
    exact nextPart_partEnded op k _ _

/-- After a sample of transfer-complete: seen, the sub-transfer's end; not seen, once more or the same end. -/
theorem sampleDone_phase (c : Config) (op : BusOp) (k : Fin 2) (n : Nat) (s : State) :
    (s.upcoming .xferComplete 0 = true → PartEnded op k (sampleDone c op k n s)) ∧
    (s.upcoming .xferComplete 0 = false → n + 1 ≠ c.spinMax →
      (sampleDone c op k n s).phase = .waitDone op k (n + 1)) ∧
    (s.upcoming .xferComplete 0 = false → n + 1 = c.spinMax → PartEnded op k (sampleDone c op k n s)) := by
  refine ⟨fun hseen => ?_, fun hunseen hn => ?_, fun hunseen hn => ?_⟩
  · rw [sampleDone_complete c op k n hseen]
    exact nextPart_partEnded op k _ _
  · rw [sampleDone_again op k hunseen hn, setPhase_phase]
  · rw [sampleDone_timeout op k hunseen hn]
    exact nextPart_partEnded op k _ _

/-- Settles O15: a step from a wait is that wait's one sample, and the sample's answer and the counter decide the phase
reached. -/
theorem waitsAreLeftBySamplesOnly : Obligations.WaitsAreLeftBySamplesOnly := by
  intro s t op k n hstep
  refine ⟨fun hp => ?_, fun hp => ?_⟩
  · rw [step_waitTx hp] at hstep
    cases hstep
    exact ⟨sampleTx_samples _ op k n (beginStep s), sampleTx_phase _ op k n (beginStep s)⟩
  · rw [step_waitDone hp] at hstep
    cases hstep
    exact ⟨sampleDone_samples _ op k n (beginStep s), sampleDone_phase _ op k n (beginStep s)⟩

end Sys2Proof.Machine
end

section
/-! What a request needs before the bus is configured (R184). -/

namespace Sys2Proof.Machine

/-- An offered bus operation is refused while the bus is not configured. -/
theorem step_offered_unconfigured {s : State} {op : BusOp} {rest : List ReqWord} (hp : s.phase = .idle)
    (hr : s.requests = encode op.instr :: rest) (hc : s.configured = false) :
    step s = .refused .notConfigured := by
  rw [step_offered hp hr]
  exact exec_instr_unconfigured op hp hc

/-- An offered RDDIAG is taken off the port and answered in the same step, whatever the configured flag says. -/
theorem step_offered_rddiag {s : State} {rest : List ReqWord} (hp : s.phase = .idle)
    (hr : s.requests = encode .rddiag :: rest) :
    step s = .next (respond (diagResponse s) { beginStep s with requests := rest }) := by
  rw [step_offered hp hr]
  exact exec_rddiag_idle hp

/-- Settles O14: an instruction other than RDDIAG is a bus operation, which Idle refuses on an unconfigured bus; RDDIAG
does not look at the flag. -/
theorem onlyRddiagRunsBeforeBoot : Obligations.OnlyRddiagRunsBeforeBoot := by
  intro i s rest hp hr
  refine ⟨fun hi hc => ?_, fun hi => ?_⟩
  · obtain ⟨op, rfl⟩ := (instr_cases i).resolve_left hi
    exact step_offered_unconfigured hp hr hc
  · subst hi
    exact ⟨_, step_offered_rddiag hp hr, rfl⟩

end Sys2Proof.Machine
end

section
/-! Decoding against encoding, the match/mask table, the reserved words and the assembler (R75, R80, R82). -/

namespace Sys2Proof

open Sys2Proof.Machine Sys2Proof.Safety

/-- Settles O2: a word decodes to exactly the operation whose encoding it is. -/
theorem decodeAndEncodeAreInverse : Obligations.DecodeAndEncodeAreInverse :=
  ⟨fun _ _ => decode_eq_ok_iff.2 rfl, fun _ _ h => (decode_eq_ok_iff.1 h).symm⟩

/-- Settles O5: each word of the table, decoded. -/
theorem sampleWordsDecode : Obligations.SampleWordsDecode := by
  unfold Obligations.SampleWordsDecode
  decide

/-- Settles O7: placing an address over a clear bit 0 is shifting it left by one. -/
theorem defaultLayoutIsAddressThenReadBit : Obligations.DefaultLayoutIsAddressThenReadBit := by
  unfold Obligations.DefaultLayoutIsAddressThenReadBit
  decide

/-! ## The match/mask table (R82) -/

/-- The fields that are left under a mask which keeps the operation. -/
def ReqFields.masked (f m : ReqFields) : ReqFields :=
  { op := f.op, h := f.h && m.h, a := f.a &&& m.a, d := f.d &&& m.d }

/-- A mask that keeps the operation, as the code 0b11 does, masks the other fields one by one. -/
theorem pack_and (f : ReqFields) {m : ReqFields} (hm : m.op = .rddiag) : f.pack &&& m.pack = (f.masked m).pack := by
  apply BitVec.eq_of_getLsbD_eq
  intro i hi
  simp only [BitVec.getLsbD_and, pack_getLsbD, ReqFields.masked, hm]
  split_ifs with h8 h15 h16
  · rfl
  · rfl
  · rfl
  · have hop : OpField.rddiag.code.getLsbD (i - 16) = true := by
      obtain rfl | rfl : i = 16 ∨ i = 17 := by omega
      · rfl
      · rfl
    rw [hop, Bool.and_true]

theorem pack_injective : Function.Injective ReqFields.pack := Function.LeftInverse.injective fields_pack

/-- A row whose mask and pattern are fields laid out matches the words whose masked fields are the pattern's. -/
theorem matchesWord_iff_masked {r : TableRow} {m p : ReqFields} (w : ReqWord) (hmask : r.mask = m.pack)
    (hpattern : r.pattern = p.pack) (hm : m.op = .rddiag) :
    r.matchesWord w = true ↔ (ReqWord.fields w).masked m = p := by
  rw [TableRow.matchesWord, hmask, hpattern, beq_iff_eq, ← pack_injective.eq_iff, ← pack_and _ hm, pack_fields]

theorem decode_eq_ok_iff_fields {w : ReqWord} {i : Instr} : decode w = .ok i ↔ ReqWord.fields w = i.fields := by
  rw [decode_eq_ok_iff, encode, ← pack_injective.eq_iff, pack_fields]

/-- Under a mask of ones an address is left as it is. -/
theorem addr_and_ones (a : RegAddr) : a &&& 127#7 = a := BitVec.and_allOnes

/-- Under a mask of ones a byte is left as it is. -/
theorem byte_and_ones (d : Byte) : d &&& 255#8 = d := BitVec.and_allOnes

theorem exists_instr_iff {P : Instr → Prop} :
    (∃ i, P i) ↔ (∃ d, P (.transferR d)) ∨ (∃ d, P (.transferH d)) ∨ (∃ a, P (.rdreg a)) ∨
      (∃ a d, P (.wrreg a d)) ∨ P .rddiag := by
  constructor
  · rintro ⟨i, hi⟩
    cases i with
    | transferR d => exact .inl ⟨d, hi⟩
    | transferH d => exact .inr (.inl ⟨d, hi⟩)
    | rdreg a => exact .inr (.inr (.inl ⟨a, hi⟩))
    | wrreg a d => exact .inr (.inr (.inr (.inl ⟨a, d, hi⟩)))
    | rddiag => exact .inr (.inr (.inr (.inr hi)))
  · rintro (⟨d, hi⟩ | ⟨d, hi⟩ | ⟨a, hi⟩ | ⟨a, d, hi⟩ | hi) <;> exact ⟨_, hi⟩

/-- A row of the table matches exactly the words that the decoder reads as an operation of its name. -/
theorem matchesWord_iff {r : TableRow} (hr : r ∈ table) (w : ReqWord) :
    r.matchesWord w = true ↔ ∃ i, decode w = .ok i ∧ i.mnemonic = r.mnemonic := by
  simp only [table, List.mem_cons, List.not_mem_nil, or_false] at hr
  simp only [decode_eq_ok_iff_fields, exists_instr_iff]
  rcases hf : ReqWord.fields w with ⟨op, h, a, d⟩
  obtain rfl | rfl | rfl | rfl | rfl := hr
  · rw [matchesWord_iff_masked (m := ⟨.rddiag, true, 0x7F, 0⟩) (p := ⟨.transfer, false, 0, 0⟩) w rfl rfl rfl, hf]
    simp [ReqFields.masked, Instr.fields, Instr.mnemonic, addr_and_ones]
  · rw [matchesWord_iff_masked (m := ⟨.rddiag, true, 0x7F, 0⟩) (p := ⟨.transfer, true, 0, 0⟩) w rfl rfl rfl, hf]
    simp [ReqFields.masked, Instr.fields, Instr.mnemonic, addr_and_ones]
  · rw [matchesWord_iff_masked (m := ⟨.rddiag, true, 0, 0xFF⟩) (p := ⟨.rdreg, false, 0, 0⟩) w rfl rfl rfl, hf]
    simp [ReqFields.masked, Instr.fields, Instr.mnemonic, byte_and_ones]
  · rw [matchesWord_iff_masked (m := ⟨.rddiag, true, 0, 0⟩) (p := ⟨.wrreg, false, 0, 0⟩) w rfl rfl rfl, hf]
    simp [ReqFields.masked, Instr.fields, Instr.mnemonic]
  · rw [matchesWord_iff_masked (m := ⟨.rddiag, true, 0x7F, 0xFF⟩) (p := ⟨.rddiag, false, 0, 0⟩) w rfl rfl rfl, hf]
    simp [ReqFields.masked, Instr.fields, Instr.mnemonic, addr_and_ones, byte_and_ones]

theorem exists_row (i : Instr) : ∃ r ∈ table, r.mnemonic = i.mnemonic := by
  cases i <;> simp [table, Instr.mnemonic]

/-- The rows' names are distinct: one row at most has the name of an operation. -/
theorem rows_of_mnemonic_le_one (i : Instr) : (table.filter (fun r => i.mnemonic = r.mnemonic)).length ≤ 1 := by
  cases i <;> exact Nat.le_refl 1

/-- Settles O3: a row matches exactly the words decoded to its name, and the rows' names are distinct. -/
theorem decodeAgreesWithTheMatchMaskTable : Obligations.DecodeAgreesWithTheMatchMaskTable := by
  intro w
  cases hd : decode w with
  | error e =>
    have hnone : ∀ r ∈ table, r.matchesWord w = false := fun r hr => by
      simp [← Bool.not_eq_true, matchesWord_iff hr, hd]
    refine ⟨?_, by simp, by simpa using hnone⟩
    rw [List.filter_eq_nil_iff.2 (by simpa using hnone)]
    exact Nat.zero_le 1
  | ok i =>
    have hrow : ∀ r ∈ table, (r.matchesWord w = true ↔ i.mnemonic = r.mnemonic) := fun r hr => by
      simp [matchesWord_iff hr, hd]
    obtain ⟨r, hr, hname⟩ := exists_row i
    refine ⟨?_, ?_, ?_⟩
    · rw [List.filter_congr fun r hr => Bool.eq_iff_iff.2 ((hrow r hr).trans decide_eq_true_iff.symm)]
      exact rows_of_mnemonic_le_one i
    · rintro j ⟨⟩
      exact ⟨r, hr, (hrow r hr).2 hname.symm, hname⟩
    · simpa using ⟨r, hr, (hrow r hr).2 hname.symm⟩

/-! ## Reserved words (R75) -/

theorem op_code_eq_extract (w : ReqWord) : w.extractLsb' 16 2 = (ReqWord.op w).code := by
  obtain ⟨hlow, hhigh⟩ := op_code_bits w
  apply BitVec.eq_of_getLsbD_eq
  intro i hi
  obtain rfl | rfl : i = 0 ∨ i = 1 := by omega
  · rw [hlow, BitVec.getLsbD_extractLsb']; rfl
  · rw [hhigh, BitVec.getLsbD_extractLsb']; rfl

/-- The four lines of R75 say that a field the operation does not use is not zero. -/
theorem reservedWord_iff (w : ReqWord) : ReservedWord w ↔ ¬ (ReqWord.fields w).wellFormed = true := by
  rw [ReservedWord, op_code_eq_extract, ReqFields.wellFormed]
  simp only [ReqWord.fields, ReqWord.h, ReqWord.a, ReqWord.d]
  cases ReqWord.op w <;> simp [OpField.code, or_iff_not_imp_left]

theorem decode_ok_iff_not_reserved (w : ReqWord) : (∃ i, decode w = .ok i) ↔ ¬ ReservedWord w := by
  rw [reservedWord_iff, not_not]
  exact decode_ok_iff_wellFormed _

/-- In Idle no operation is refused as reserved. -/
theorem exec_ne_reserved {s : State} (hp : s.phase = .idle) (i : Instr) (w : ReqWord) (why : ReservedField) :
    exec i s ≠ .refused (.reserved w why) := by
  obtain rfl | ⟨op, rfl⟩ := instr_cases i
  · rw [exec_rddiag_idle hp]
    exact fun h => by cases h
  · cases hc : s.configured
    · rw [exec_instr_unconfigured op hp hc]
      exact fun h => by cases h
    · rw [exec_instr_idle op hp hc]
      exact fun h => by cases h

/-- Settles O4: the reserved words are those whose fields are not well formed, which are those that do not decode; a step
refuses them, and what it does with any other word is the operation's own meaning. -/
theorem reservedWordsAreRefused : Obligations.ReservedWordsAreRefused := by
  refine ⟨decode_ok_iff_not_reserved, fun s w rest hp hr => ?_⟩
  cases hd : decode w with
  | error e =>
    have hres : ReservedWord w := by
      rw [← not_not (a := ReservedWord w), ← decode_ok_iff_not_reserved, hd]
      simp
    exact iff_of_true ⟨e, step_reserved hp hr hd⟩ hres
  | ok i =>
    have hres : ¬ ReservedWord w := (decode_ok_iff_not_reserved w).1 ⟨i, hd⟩
    refine iff_of_false ?_ hres
    rintro ⟨why, hstep⟩
    rw [step_offered hp (decode_eq_ok_iff.1 hd ▸ hr)] at hstep
    exact exec_ne_reserved (s := { beginStep s with requests := rest }) hp i w why hstep

/-! ## The assembler (R80) -/

theorem assemble_of_wellFormed {l : AsmLine} (h : l.wellFormed = true) : l.assemble = some (l.expand.map encode) := by
  simp [AsmLine.assemble, h]

theorem assemble_eq_none_iff (l : AsmLine) : l.assemble = none ↔ l.wellFormed = false := by
  simp [AsmLine.assemble]

theorem byteFits_eq_false_iff (d : Nat) : AsmLine.byteFits d = false ↔ 256 ≤ d := by
  simp [AsmLine.byteFits]

theorem addrFits_eq_false_iff (a : Nat) : AsmLine.addrFits a = false ↔ 128 ≤ a := by
  simp [AsmLine.addrFits]

theorem byteFits_toNat (d : Byte) : AsmLine.byteFits d.toNat = true := decide_eq_true d.isLt

theorem addrFits_toNat (a : RegAddr) : AsmLine.addrFits a.toNat = true := decide_eq_true a.isLt

/-- An operation's own operands fit, and are read back as written. -/
theorem assemble_asm (i : Instr) : i.asm.assemble = some [encode i] := by
  have hwf : i.asm.wellFormed = true := by
    cases i <;> simp [Instr.asm, AsmLine.wellFormed, byteFits_toNat, addrFits_toNat]
  rw [assemble_of_wellFormed hwf]
  cases i <;> simp [Instr.asm, AsmLine.expand]

theorem assemble_frame_nil (d : Nat) : AsmLine.assemble (.frame d []) = AsmLine.assemble (.transferR d) := by
  simp [AsmLine.assemble, AsmLine.wellFormed, AsmLine.expand, frameInstrs]

theorem frame_wellFormed_iff (d : Nat) (rest : List Nat) :
    AsmLine.wellFormed (.frame d rest) = true ↔ ∀ e ∈ d :: rest, e < 256 := by
  simp [AsmLine.wellFormed, AsmLine.byteFits]

/-- A frame's first byte is one with hold, before the frame of the others. -/
theorem assemble_frame_cons {d e : Nat} {rest : List Nat} {ws : List ReqWord}
    (h : AsmLine.assemble (.frame e rest) = some ws) (hd : d < 256) :
    AsmLine.assemble (.frame d (e :: rest)) = some (encode (.transferH (BitVec.ofNat 8 d)) :: ws) := by
  obtain ⟨hrest, rfl⟩ : AsmLine.wellFormed (.frame e rest) = true ∧ (frameInstrs e rest).map encode = ws := by
    simpa [AsmLine.assemble, AsmLine.expand] using h
  rw [assemble_of_wellFormed]
  · rfl
  · rw [frame_wellFormed_iff] at hrest ⊢
    exact List.forall_mem_cons.2 ⟨hd, hrest⟩

theorem assemble_frame_eq_none {d : Nat} {rest : List Nat} (h : ∃ e ∈ d :: rest, 256 ≤ e) :
    AsmLine.assemble (.frame d rest) = none := by
  obtain ⟨e, he, hwide⟩ := h
  rw [assemble_eq_none_iff, ← Bool.not_eq_true, frame_wellFormed_iff]
  exact fun hfit => Nat.not_lt.2 hwide (hfit e he)

/-- Settles O8: a line assembles when its operands fit, and the pseudo-instructions expand to the forms they stand for. -/
theorem assemblerLinesAssemble : Obligations.AssemblerLinesAssemble := by
  refine ⟨assemble_asm, fun d b => ?_, fun a => rfl, fun a d => rfl, assemble_frame_nil,
    fun d e rest ws h hd => assemble_frame_cons h hd, fun d rest h => assemble_frame_eq_none h, fun a => ?_, fun a d => ?_,
    fun d => ?_, fun d => ?_⟩
  · cases b <;> rfl
  · rw [assemble_eq_none_iff]
    exact addrFits_eq_false_iff a
  · rw [assemble_eq_none_iff, AsmLine.wellFormed, Bool.and_eq_false_iff, addrFits_eq_false_iff, byteFits_eq_false_iff]
  · rw [assemble_eq_none_iff]
    exact byteFits_eq_false_iff d
  · rw [assemble_eq_none_iff]
    exact byteFits_eq_false_iff d

end Sys2Proof
end

section
/-! What every step keeps: the legal phases and the invariant (R21 to R24, R35, R101, R102). -/

namespace Sys2Proof.Machine

open Sys2Proof.Safety

/-! ## The phase stays legal (R23, R24) -/

theorem nextPart_legalPhase (c : Config) (op : BusOp) (k : Fin 2) (r : Byte) (s : State) :
    legalPhase c (nextPart op k r s).phase := by
  obtain ⟨hnext, h⟩ | ⟨-, h⟩ := nextPart_cases op k r s <;> rw [h]
  · obtain ⟨-, -, htwo⟩ := hasNext_spec c hnext
    exact ⟨fun _ => htwo, c.spinMax_pos⟩
  · trivial

theorem sampleTx_legalPhase {c : Config} {op : BusOp} {k : Fin 2} {n : Nat} (hl : legalPhase c (.waitTx op k n))
    (s : State) : legalPhase c (sampleTx c op k n s).phase := by
  obtain ⟨hk, hn⟩ := hl
  obtain h | ⟨hlast, h⟩ | ⟨-, h⟩ := sampleTx_cases c op k n s <;> rw [h]
  · exact ⟨hk, c.spinMax_pos⟩
  · exact ⟨hk, by omega⟩
  · exact nextPart_legalPhase c op k _ _

theorem sampleDone_legalPhase {c : Config} {op : BusOp} {k : Fin 2} {n : Nat} (hl : legalPhase c (.waitDone op k n))
    (s : State) : legalPhase c (sampleDone c op k n s).phase := by
  obtain ⟨hk, hn⟩ := hl
  obtain h | ⟨hlast, h⟩ | ⟨-, h⟩ := sampleDone_cases c op k n s <;> rw [h]
  · exact nextPart_legalPhase c op k _ _
  · exact ⟨hk, by omega⟩
  · exact nextPart_legalPhase c op k _ _

theorem accept_legalPhase (c : Config) (op : BusOp) (s : State) : legalPhase c (accept op s).phase :=
  ⟨fun h => absurd h (by decide), c.spinMax_pos⟩

theorem stepAt_legalPhase {c : Config} {s t : State} (hl : legalPhase c s.phase) (h : stepAt c s = .next t) :
    legalPhase c t.phase := by
  obtain ⟨-, -, rfl⟩ | ⟨w, rest, hp, -, ⟨-, rfl⟩ | ⟨op, -, -, rfl⟩⟩ | ⟨op, k, n, hp, rfl⟩ | ⟨op, k, n, hp, rfl⟩ :=
    stepAt_cases h
  · exact hl
  · trivial
  · exact accept_legalPhase c op _
  · exact sampleTx_legalPhase (hp ▸ hl) _
  · exact sampleDone_legalPhase (hp ▸ hl) _

/-! ## The wire and chip-select agree (R35) -/

/-- The history is one the wire can carry, and a frame is open in it exactly while chip-select is asserted. -/
def WireAgrees (s : State) : Prop :=
  ∃ w, wireScan .outside s.hist = some w ∧ (w = .outside ↔ s.cs = .released)

theorem wireAgrees_csAssert {s : State} (h : WireAgrees s) : WireAgrees (csAssert s) := by
  obtain ⟨w, hscan, hw⟩ := h
  rw [csAssert_eq]
  cases hcs : s.cs with
  | released =>
    obtain rfl := hw.2 hcs
    exact ⟨.inside, wireScan_append hscan _, by simp⟩
  | asserted => exact ⟨w, by simpa [frameOpening] using hscan, by simp [hw, hcs]⟩

/-- Releasing chip-select ends the frame that is open, wherever in it the wire stands. -/
theorem wireAgrees_csRelease {s : State} (h : WireAgrees s) : WireAgrees (csRelease s) := by
  obtain ⟨w, hscan, hw⟩ := h
  rw [csRelease_eq]
  refine ⟨.outside, ?_, by simp⟩
  rw [wireScan_append hscan]
  cases hcs : s.cs with
  | released => rw [hw.2 hcs]; rfl
  | asserted =>
    cases w with
    | outside => simp [hcs] at hw
    | inside => rfl
    | pushed => rfl

theorem wireAgrees_releaseUnlessHeld {s : State} (h : WireAgrees s) (hold : Bool) :
    WireAgrees (releaseUnlessHeld hold s) := by
  cases hold
  · exact wireAgrees_csRelease h
  · exact h

theorem wireAgrees_timeoutExit {s : State} (h : WireAgrees s) (c : Config) (cause : Cause) (hold : Bool) :
    WireAgrees (timeoutExit c cause hold s) := by
  have h' : WireAgrees { s with diag := diagAfterTimeout cause } := h
  rw [timeoutExit, csOnTimeout]
  split
  · exact wireAgrees_releaseUnlessHeld h' hold
  · exact wireAgrees_csRelease h'
  · exact h'

theorem wireAgrees_successExit {s : State} (h : WireAgrees s) (c : Config) (x : SubTransfer) :
    WireAgrees (successExit c x s) := wireAgrees_releaseUnlessHeld h x.hold

/-- A byte pushed in an open frame leaves the wire waiting for its answer. -/
theorem wireScan_byteOut {s : State} (h : WireAgrees s) (hcs : s.cs = .asserted) (v : Byte) :
    wireScan .outside (s.hist ++ [.byteOut v]) = some .pushed := by
  obtain ⟨w, hscan, hw⟩ := h
  rw [wireScan_append hscan]
  cases w with
  | outside => simp [hcs] at hw
  | inside => rfl
  | pushed => rfl

/-- Reading the byte that answers the one pushed leaves the frame open. -/
theorem wireAgrees_readRxData {s : State} (h : wireScan .outside s.hist = some .pushed) (hcs : s.cs = .asserted) :
    WireAgrees (readRxData s).2 :=
  ⟨.inside, wireScan_append h _, by simp [hcs]⟩

/-! ## The invariant, by phase -/

theorem inv_of_idle {c : Config} {s : State} (hp : s.phase = .idle) (hw : WireAgrees s)
    (hr : ∀ r, s.resp = some r → s.reports.getLast? = some r) : Inv c s where
  phase_legal := by rw [hp]; trivial
  busy_configured h := absurd hp h
  busy_selected h := absurd hp h
  wire := hw
  awaiting_pushed op k n h := by rw [hp] at h; cases h
  response_idle _ := hp
  response_reported := hr

/-- An operation in progress delivers nothing. -/
theorem inv_of_busy {c : Config} {s : State} (hl : legalPhase c s.phase) (hc : s.configured = true)
    (hcs : s.cs = .asserted) (hw : WireAgrees s) (hr : s.resp = none)
    (hpushed : ∀ op k n, s.phase = .waitDone op k n → wireScan .outside s.hist = some .pushed) : Inv c s where
  phase_legal := hl
  busy_configured _ := hc
  busy_selected _ := hcs
  wire := hw
  awaiting_pushed := hpushed
  response_idle h := absurd hr h
  response_reported r h := by rw [hr] at h; cases h

theorem inv_beginStep {c : Config} {s : State} (h : Inv c s) : Inv c (beginStep s) where
  phase_legal := h.phase_legal
  busy_configured := h.busy_configured
  busy_selected := h.busy_selected
  wire := h.wire
  awaiting_pushed := h.awaiting_pushed
  response_idle hr := absurd rfl hr
  response_reported r hr := by cases hr

/-- The first wait of a sub-transfer begins with chip-select asserted. -/
theorem inv_startWait {c : Config} {s : State} {op : BusOp} {k : Fin 2} (hl : legalPhase c (.waitTx op k 0))
    (hc : s.configured = true) (hw : WireAgrees s) (hr : s.resp = none) :
    Inv c (setPhase (.waitTx op k 0) (csAssert s)) :=
  inv_of_busy hl (by simpa [csAssert_eq] using hc) (by simp [csAssert_eq]) (wireAgrees_csAssert hw)
    (by simpa [csAssert_eq] using hr) (fun _ _ _ h => by cases h)

theorem inv_respond {c : Config} {s : State} (hw : WireAgrees s) (r : Response) : Inv c (respond r s) :=
  inv_of_idle rfl hw (fun r' h => by cases h; simp)

theorem inv_nextPart {c : Config} {s : State} (hc : s.configured = true) (hw : WireAgrees s) (hr : s.resp = none)
    (op : BusOp) (k : Fin 2) (r : Byte) : Inv c (nextPart op k r s) := by
  have hl := nextPart_legalPhase c op k r s
  obtain ⟨-, h⟩ | ⟨-, h⟩ := nextPart_cases op k r s <;> rw [h] at hl ⊢
  · exact inv_startWait hl hc hw hr
  · exact inv_respond hw _

/-- A wait that runs out. -/
theorem inv_timeout {c : Config} {s : State} (hc : s.configured = true) (hw : WireAgrees s) (hr : s.resp = none)
    (op : BusOp) (k : Fin 2) (cause : Cause) (f : Flag) :
    Inv c (nextPart op k Config.sentinel (timeoutExit c cause (sub c op k).hold (sample f s).2)) :=
  inv_nextPart (by simpa [timeoutExit_eq] using hc) (wireAgrees_timeoutExit (s := (sample f s).2) hw c cause _)
    (by simpa [timeoutExit_eq] using hr) op k _

theorem inv_sampleTx {c : Config} {s : State} {op : BusOp} {k : Fin 2} {n : Nat} (hi : Inv c s)
    (hp : s.phase = .waitTx op k n) (hr : s.resp = none) : Inv c (sampleTx c op k n s) := by
  have hbusy : s.phase ≠ .idle := by simp [hp]
  have hl := sampleTx_legalPhase (hp ▸ hi.phase_legal) s
  obtain h | ⟨-, h⟩ | ⟨-, h⟩ := sampleTx_cases c op k n s <;> rw [h] at hl ⊢
  · have hpushed := wireScan_byteOut hi.wire (hi.busy_selected hbusy) (sub c op k).tx
    exact inv_of_busy hl (hi.busy_configured hbusy) (hi.busy_selected hbusy)
      ⟨.pushed, hpushed, by simp [hi.busy_selected hbusy]⟩ hr (fun _ _ _ _ => hpushed)
  · exact inv_of_busy hl (hi.busy_configured hbusy) (hi.busy_selected hbusy) hi.wire hr (fun _ _ _ h => by cases h)
  · exact inv_timeout (hi.busy_configured hbusy) hi.wire hr op k .txPathFull .txReady

theorem inv_sampleDone {c : Config} {s : State} {op : BusOp} {k : Fin 2} {n : Nat} (hi : Inv c s)
    (hp : s.phase = .waitDone op k n) (hr : s.resp = none) : Inv c (sampleDone c op k n s) := by
  have hbusy : s.phase ≠ .idle := by simp [hp]
  have hpushed := hi.awaiting_pushed op k n hp
  have hl := sampleDone_legalPhase (hp ▸ hi.phase_legal) s
  obtain h | ⟨-, h⟩ | ⟨-, h⟩ := sampleDone_cases c op k n s <;> rw [h] at hl ⊢
  · have hread : WireAgrees (readRxData (sample .xferComplete s).2).2 :=
      wireAgrees_readRxData hpushed (hi.busy_selected hbusy)
    exact inv_nextPart (by simpa [successExit_eq] using hi.busy_configured hbusy) (wireAgrees_successExit hread c _)
      (by simpa [successExit_eq] using hr) op k _
  · exact inv_of_busy hl (hi.busy_configured hbusy) (hi.busy_selected hbusy) hi.wire hr (fun _ _ _ _ => hpushed)
  · exact inv_timeout (hi.busy_configured hbusy) hi.wire hr op k .transferIncomplete .xferComplete

theorem stepAt_inv {c : Config} {s t : State} (hi : Inv c s) (h : stepAt c s = .next t) : Inv c t := by
  obtain ⟨-, -, rfl⟩ | ⟨w, rest, -, -, ⟨-, rfl⟩ | ⟨op, -, hc, rfl⟩⟩ | ⟨op, k, n, hp, rfl⟩ | ⟨op, k, n, hp, rfl⟩ :=
    stepAt_cases h
  · exact inv_beginStep hi
  · exact inv_respond (s := { beginStep s with requests := rest }) hi.wire _
  · exact inv_startWait (s := { beginStep s with requests := rest }) (accept_legalPhase c op s) hc hi.wire rfl
  · exact inv_sampleTx (inv_beginStep hi) hp rfl
  · exact inv_sampleDone (inv_beginStep hi) hp rfl

/-- Settles O39: each action of the sequencer keeps the wire in agreement with chip-select, and leads to a legal phase. -/
theorem stepKeepsTheInvariant : Obligations.StepKeepsTheInvariant := by
  intro s t hi hstep
  rw [step_eq_stepAt] at hstep
  exact stepAt_inv hi hstep

/-- Settles O38: reset and boot are Idle with no event and no response. -/
theorem resetMeetsTheInvariant : Obligations.ResetMeetsTheInvariant :=
  ⟨fun _ => inv_of_idle rfl ⟨.outside, rfl, by decide⟩ (fun _ h => by cases h),
    fun _ _ _ => inv_of_idle rfl ⟨.outside, rfl, by simp [boot]⟩ (fun _ h => by cases h)⟩

end Sys2Proof.Machine
end

section
/-! What the sequencer's actions and every step leave alone (R23 to R28, R35, R140), and how a wait that runs out goes on
(R108, R123). -/

namespace Sys2Proof.Machine

open Sys2Proof.Safety

/-! ## Acceptance, field by field (R102) -/

section
variable (op : BusOp) (s : State)

@[simp] theorem accept_diag : (accept op s).diag = s.diag := by simp [accept, csAssert_eq]
@[simp] theorem accept_configured : (accept op s).configured = s.configured := by simp [accept, csAssert_eq]
@[simp] theorem accept_requests : (accept op s).requests = s.requests := by simp [accept, csAssert_eq]
@[simp] theorem accept_resp : (accept op s).resp = s.resp := by simp [accept, csAssert_eq]
@[simp] theorem accept_reports : (accept op s).reports = s.reports := by simp [accept, csAssert_eq]
@[simp] theorem accept_env : (accept op s).env = s.env := by simp [accept, csAssert_eq]
@[simp] theorem accept_phase : (accept op s).phase = .waitTx op 0 0 := rfl
@[simp] theorem accept_hist : (accept op s).hist = s.hist ++ frameOpening s.cs := by simp [accept, csAssert_eq]

end

/-! ## A wait that runs out, in either flag (R108) -/

/-- The flag is the one awaited in this phase of the operation, and the cause the one its timeout records. -/
def Awaits (s : State) (op : BusOp) (k : Fin 2) (n : Nat) (flag : Flag) (cause : Cause) : Prop :=
  (s.phase = .waitTx op k n ∧ flag = .txReady ∧ cause = .txPathFull) ∨
    (s.phase = .waitDone op k n ∧ flag = .xferComplete ∧ cause = .transferIncomplete)

theorem exec_timeout {s : State} {op : BusOp} {k : Fin 2} {n : Nat} {flag : Flag} {cause : Cause}
    (h : Awaits s op k n flag cause) (hunseen : s.upcoming flag 0 = false) (hn : n + 1 = Config.platform.spinMax) :
    exec op.instr s =
      .next (nextPart op k Config.sentinel
        (timeoutExit Config.platform cause (sub Config.platform op k).hold (sample flag s).2)) := by
  obtain ⟨hp, rfl, rfl⟩ | ⟨hp, rfl, rfl⟩ := h
  · rw [exec_instr_waitTx hp, sampleTx_timeout op k hunseen hn]
  · rw [exec_instr_waitDone hp, sampleDone_timeout op k hunseen hn]

theorem exec_timeout_leaves {s : State} {op : BusOp} {k : Fin 2} {n : Nat} {flag : Flag} {cause : Cause}
    (h : Awaits s op k n flag cause) (hunseen : s.upcoming flag 0 = false) (hn : n + 1 = Config.platform.spinMax) :
    ∃ t, exec op.instr s = .next t ∧ t.diag = some cause ∧ PartEnded op k t :=
  ⟨_, exec_timeout h hunseen hn, by simp [timeoutExit_eq], nextPart_partEnded op k _ _⟩

/-- Settles O18: a false sample stays in the wait or, the last one allowed, ends the sub-transfer; and legal phases lead to
legal ones. -/
theorem falseSamplesAreCounted : Obligations.FalseSamplesAreCounted := by
  refine ⟨fun op k n s hp hunseen => ⟨fun hn => ?_, fun hn => ?_⟩,
    fun op k n s hp hunseen => ⟨fun hn => ?_, fun hn => ?_⟩, fun s t hl hstep => ?_⟩
  · rw [exec_instr_waitTx hp, sampleTx_again op k hunseen hn]
    rfl
  · exact exec_timeout_leaves (.inl ⟨hp, rfl, rfl⟩) hunseen hn
  · rw [exec_instr_waitDone hp, sampleDone_again op k hunseen hn]
    rfl
  · exact exec_timeout_leaves (.inr ⟨hp, rfl, rfl⟩) hunseen hn
  · rw [step_eq_stepAt] at hstep
    exact stepAt_legalPhase hl hstep

/-- Settles O20: the last sub-transfer's timeout responds with the sentinel after the timeout exit. -/
theorem timeoutOfTheLastPartEndsTheOperation : Obligations.TimeoutOfTheLastPartEndsTheOperation := by
  intro op k n s flag cause hawaits hcs hunseen hn hlast
  refine ⟨_, exec_timeout hawaits hunseen hn, ?_⟩
  rw [nextPart_of_last hlast, timeoutExit_eq]
  refine ⟨rfl, rfl, rfl, rfl, rfl, rfl, rfl, fun hpolicy => ⟨fun hhold => ?_, fun hhold => ?_⟩, fun hpolicy => ?_,
    fun hpolicy => ?_⟩
  · simp [timeoutReleases, hpolicy, hhold, hcs]
  · simp [timeoutReleases, hpolicy, hhold, hcs, frameClosing]
  · simp [timeoutReleases, hpolicy, hcs, frameClosing]
  · simp [timeoutReleases, hpolicy, hcs]

/-- The command phase's timeout: its sub-transfer holds, so that only Release ends the frame, and the data phase opens
another. -/
theorem nextPart_timeout_of_next {c : Config} {op : BusOp} {k : Fin 2} {s : State} (hnext : hasNext op k = true)
    (hcs : s.cs = .asserted) (r : Byte) (cause : Cause) (flag : Flag) :
    nextPart op k r (timeoutExit c cause (sub c op k).hold (sample flag s).2) =
      { s with
        phase := .waitTx op 1 0
        diag := some cause
        hist := s.hist ++ match c.csOnTimeout with
          | .followHold => []
          | .release => [.frameEnd, .frameStart]
          | .keep => []
        env := s.env.afterSample flag } := by
  obtain ⟨-, hhold, -⟩ := hasNext_spec c hnext
  rw [nextPart_of_next hnext, timeoutExit_eq, csAssert_eq, hhold, sample_cs, hcs]
  cases hpolicy : c.csOnTimeout <;>
    simp [timeoutReleases, hpolicy, frameOpening, frameClosing, setPhase, hcs, sample]

/-- Settles O21: the command phase is the part that has a next one. -/
theorem timeoutOfTheCommandPhaseGoesOn : Obligations.TimeoutOfTheCommandPhaseGoesOn := by
  intro op n s flag cause hawaits hcs hunseen hn htwo
  rw [exec_timeout hawaits hunseen hn]
  exact congrArg Host.Outcome.next (nextPart_timeout_of_next ((hasNext_zero op).trans htwo) hcs _ cause flag)

/-! ## The frame of the instructions -/

/-- What an action of a bus operation leaves alone: the configured flag, the requests, and the events so far. -/
theorem busOp_frame {c : Config} {op : BusOp} {s t : State} (h : busOp c op s = .next t) :
    t.configured = s.configured ∧ t.requests = s.requests ∧ s.hist <+: t.hist := by
  obtain ⟨-, -, rfl⟩ | ⟨k, n, -, rfl⟩ | ⟨k, n, -, rfl⟩ := busOp_cases h
  · exact ⟨accept_configured op s, accept_requests op s, _, (accept_hist op s).symm⟩
  · obtain ⟨es, hes, -⟩ := sampleTx_hist c op k n s
    exact ⟨sampleTx_configured c op k n s, sampleTx_requests c op k n s, es, hes.symm⟩
  · obtain ⟨es, hes, -⟩ := sampleDone_hist c op k n s
    exact ⟨sampleDone_configured c op k n s, sampleDone_requests c op k n s, es, hes.symm⟩

/-- An action of a bus operation goes on with nothing delivered, or delivers one response in Idle. -/
theorem busOp_response {c : Config} {op : BusOp} {s t : State} (h : busOp c op s = .next t) :
    (t.resp = s.resp ∧ t.reports = s.reports ∧ t.phase ≠ .idle) ∨
    ∃ r, t.resp = some r ∧ t.reports = s.reports ++ [r] ∧ t.phase = .idle := by
  obtain ⟨-, -, rfl⟩ | ⟨k, n, -, rfl⟩ | ⟨k, n, -, rfl⟩ := busOp_cases h
  · exact .inl ⟨accept_resp op s, accept_reports op s, by simp⟩
  · exact sampleTx_response c op k n s
  · exact sampleDone_response c op k n s

theorem busOp_eq_accept {c : Config} {op : BusOp} {s t : State} (h : busOp c op s = .next t) (hp : s.phase = .idle) :
    t = accept op s := by
  obtain ⟨-, -, ht⟩ | ⟨k, n, hk, -⟩ | ⟨k, n, hk, -⟩ := busOp_cases h
  · exact ht
  · rw [hp] at hk; cases hk
  · rw [hp] at hk; cases hk

/-- Settles O24: RDDIAG only responds; a bus operation's action changes what its case says and nothing else. -/
theorem instructionsLeaveTheRestAlone : Obligations.InstructionsLeaveTheRestAlone := by
  intro i s t h
  rw [exec_eq_execAt] at h
  obtain rfl | ⟨op, rfl⟩ := instr_cases i
  · obtain ⟨hp, rfl⟩ := rddiag_cases h
    exact ⟨rfl, rfl, ⟨[], List.append_nil _⟩, ⟨[_], rfl⟩, fun _ => ⟨rfl, rfl, rfl, rfl, hp.symm⟩,
      fun _ hi => absurd rfl hi, fun hbusy => absurd rfl hbusy⟩
  · rw [execAt_instr] at h
    obtain ⟨hconf, hreq, hhist⟩ := busOp_frame h
    have hresp := busOp_response h
    refine ⟨hconf, hreq, hhist, ?_, fun hi => ?_, fun hp _ => ?_, fun hbusy => ?_⟩
    · obtain ⟨-, hr, -⟩ | ⟨r, -, hr, -⟩ := hresp
      · rw [hr]
      · exact ⟨[r], hr.symm⟩
    · cases op <;> cases hi
    · obtain rfl := busOp_eq_accept h hp
      exact ⟨accept_diag op s, accept_env op s, accept_resp op s, accept_reports op s⟩
    · obtain ⟨hr, hreports, -⟩ | ⟨r, -, -, hidle⟩ := hresp
      · exact ⟨hr, hreports⟩
      · exact absurd hidle hbusy

/-! ## Every step -/

section
variable {c : Config} {s t : State} (h : stepAt c s = .next t)
include h

theorem stepAt_configured : t.configured = s.configured := by
  obtain ⟨-, -, rfl⟩ | ⟨w, rest, -, -, ⟨-, rfl⟩ | ⟨op, -, -, rfl⟩⟩ | ⟨op, k, n, -, rfl⟩ | ⟨op, k, n, -, rfl⟩ :=
    stepAt_cases h
  · rfl
  · rfl
  · exact accept_configured op _
  · exact sampleTx_configured c op k n _
  · exact sampleDone_configured c op k n _

theorem stepAt_requests : t.requests = s.requests ∨ (s.phase = .idle ∧ ∃ w, s.requests = w :: t.requests) := by
  obtain ⟨-, -, rfl⟩ | ⟨w, rest, hp, hr, ⟨-, rfl⟩ | ⟨op, -, -, rfl⟩⟩ | ⟨op, k, n, -, rfl⟩ | ⟨op, k, n, -, rfl⟩ :=
    stepAt_cases h
  · exact .inl rfl
  · exact .inr ⟨hp, w, hr⟩
  · exact .inr ⟨hp, w, by rw [hr, accept_requests]⟩
  · exact .inl (sampleTx_requests c op k n _)
  · exact .inl (sampleDone_requests c op k n _)

/-- A step adds at most two events, and a byte out alone exactly where the port shows it. -/
theorem stepAt_hist :
    ∃ es, t.hist = s.hist ++ es ∧ es.length ≤ 2 ∧ ∀ v, es = [.byteOut v] ↔ perTxData c s = some v := by
  obtain ⟨hp, -, rfl⟩ | ⟨w, rest, hp, -, ⟨-, rfl⟩ | ⟨op, -, -, rfl⟩⟩ | ⟨op, k, n, hp, rfl⟩ | ⟨op, k, n, hp, rfl⟩ :=
    stepAt_cases h
  · exact ⟨[], by simp, by simp, by simp [perTxData, hp]⟩
  · exact ⟨[], by simp, by simp, by simp [perTxData, hp]⟩
  · refine ⟨_, accept_hist op _, ?_, ?_⟩ <;> cases hcs : s.cs <;> simp [frameOpening, perTxData, hp, hcs]
  · obtain ⟨es, hes, hlen, hpush⟩ := sampleTx_hist c op k n (beginStep s)
    refine ⟨es, hes, hlen, fun v => ?_⟩
    rw [hpush, perTxData, hp, upcoming_beginStep]
    simp [@eq_comm _ v]
  · obtain ⟨es, hes, hlen, hpush⟩ := sampleDone_hist c op k n (beginStep s)
    exact ⟨es, hes, hlen, fun v => by simp [hpush, perTxData, hp]⟩

theorem stepAt_response :
    (t.resp = none ∧ t.reports = s.reports ∧ (s.phase ≠ .idle → t.phase ≠ .idle)) ∨
    (∃ r, t.resp = some r ∧ t.reports = s.reports ++ [r] ∧ t.phase = .idle) := by
  obtain ⟨-, -, rfl⟩ | ⟨w, rest, hp, -, ⟨-, rfl⟩ | ⟨op, -, -, rfl⟩⟩ | ⟨op, k, n, -, rfl⟩ | ⟨op, k, n, -, rfl⟩ :=
    stepAt_cases h
  · exact .inl ⟨rfl, rfl, id⟩
  · exact .inr ⟨_, rfl, rfl, rfl⟩
  · exact .inl ⟨accept_resp op _, accept_reports op _, fun hbusy => absurd hp hbusy⟩
  · exact (sampleTx_response c op k n _).imp_left fun ⟨hr, hreports, hbusy⟩ => ⟨hr, hreports, fun _ => hbusy⟩
  · exact (sampleDone_response c op k n _).imp_left fun ⟨hr, hreports, hbusy⟩ => ⟨hr, hreports, fun _ => hbusy⟩

end

theorem sampleTx_diag (c : Config) (op : BusOp) (k : Fin 2) (n : Nat) (s : State) :
    (sampleTx c op k n s).diag = s.diag ∨
    (n + 1 = c.spinMax ∧ s.upcoming .txReady 0 = false ∧ (sampleTx c op k n s).diag = some .txPathFull) := by
  cases hseen : s.upcoming .txReady 0 with
  | true => exact .inl (by rw [sampleTx_ready c op k n hseen]; rfl)
  | false =>
    by_cases hn : n + 1 = c.spinMax
    · exact .inr ⟨hn, rfl, sampleTx_diag_of_timeout op k hseen hn⟩
    · exact .inl (by rw [sampleTx_again op k hseen hn]; rfl)

theorem sampleDone_diag (c : Config) (op : BusOp) (k : Fin 2) (n : Nat) (s : State) :
    (sampleDone c op k n s).diag = s.diag ∨
    (n + 1 = c.spinMax ∧ s.upcoming .xferComplete 0 = false ∧
      (sampleDone c op k n s).diag = some .transferIncomplete) ∨
    (s.upcoming .xferComplete 0 = true ∧ c.diagOnSuccess = .clear ∧ (sampleDone c op k n s).diag = none) := by
  cases hseen : s.upcoming .xferComplete 0 with
  | true =>
    rw [sampleDone_diag_of_complete c op k n hseen]
    cases hpolicy : c.diagOnSuccess with
    | keep => exact .inl (diagAfterSuccess_keep hpolicy _)
    | clear => exact .inr (.inr ⟨rfl, rfl, diagAfterSuccess_clear hpolicy _⟩)
  | false =>
    by_cases hn : n + 1 = c.spinMax
    · exact .inr (.inl ⟨hn, rfl, sampleDone_diag_of_timeout op k hseen hn⟩)
    · exact .inl (by rw [sampleDone_again op k hseen hn]; rfl)

/-- The cause after a step: as it was, or the one that a timeout or a success under Clear writes (R25). -/
theorem stepAt_diag {c : Config} {s t : State} (h : stepAt c s = .next t) :
    t.diag = s.diag ∨
    (∃ op k n, s.phase = .waitTx op k n ∧ n + 1 = c.spinMax ∧ s.upcoming .txReady 0 = false ∧
      t.diag = some .txPathFull) ∨
    (∃ op k n, s.phase = .waitDone op k n ∧ n + 1 = c.spinMax ∧ s.upcoming .xferComplete 0 = false ∧
      t.diag = some .transferIncomplete) ∨
    (∃ op k n, s.phase = .waitDone op k n ∧ s.upcoming .xferComplete 0 = true ∧ c.diagOnSuccess = .clear ∧
      t.diag = none) := by
  obtain ⟨-, -, rfl⟩ | ⟨w, rest, -, -, ⟨-, rfl⟩ | ⟨op, -, -, rfl⟩⟩ | ⟨op, k, n, hp, rfl⟩ | ⟨op, k, n, hp, rfl⟩ :=
    stepAt_cases h
  · exact .inl rfl
  · exact .inl rfl
  · exact .inl (accept_diag op _)
  · obtain hd | ⟨hn, hunseen, hd⟩ := sampleTx_diag c op k n (beginStep s)
    · exact .inl hd
    · exact .inr (.inl ⟨op, k, n, hp, hn, hunseen, hd⟩)
  · obtain hd | ⟨hn, hunseen, hd⟩ | ⟨hseen, hpolicy, hd⟩ := sampleDone_diag c op k n (beginStep s)
    · exact .inl hd
    · exact .inr (.inr (.inl ⟨op, k, n, hp, hn, hunseen, hd⟩))
    · exact .inr (.inr (.inr ⟨op, k, n, hp, hseen, hpolicy, hd⟩))

/-! ## The statements about every step -/

/-- Settles O40: no action touches the flag, and acceptance needs it. -/
theorem noStepWritesTheConfiguredFlag : Obligations.NoStepWritesTheConfiguredFlag := by
  refine ⟨fun s t hstep => ?_, fun s => rfl, fun op s hp hc => exec_instr_unconfigured op hp hc⟩
  rw [step_eq_stepAt] at hstep
  exact stepAt_configured hstep

/-- Settles O41: the events that a step adds. -/
theorem historyOnlyGrows : Obligations.HistoryOnlyGrows := by
  intro s t hstep
  rw [step_eq_stepAt] at hstep
  obtain ⟨es, hes, hlen, -⟩ := stepAt_hist hstep
  exact ⟨es, hes, hlen⟩

/-- Settles O42: the cause after each kind of step. -/
theorem onlyTimeoutsAndClearingWriteTheCause : Obligations.OnlyTimeoutsAndClearingWriteTheCause := by
  intro s t hstep
  rw [step_eq_stepAt] at hstep
  exact stepAt_diag hstep

/-- Settles O43: an operation's end is the only action that responds. -/
theorem responsesAreDeliveredOnce : Obligations.ResponsesAreDeliveredOnce := by
  intro s t hstep
  rw [step_eq_stepAt] at hstep
  exact stepAt_response hstep

/-- Settles O44: only a step from Idle takes a request off the port. -/
theorem requestsAreTakenInOrder : Obligations.RequestsAreTakenInOrder := by
  intro s t hstep
  rw [step_eq_stepAt] at hstep
  exact stepAt_requests hstep

/-- Settles O49: the port and the history speak of the same push. -/
theorem transmitDataPortIsTheBytePushed : Obligations.TransmitDataPortIsTheBytePushed := by
  intro s t v hstep
  rw [step_eq_stepAt] at hstep
  obtain ⟨es, hes, -, hpush⟩ := stepAt_hist hstep
  rw [hes, List.append_cancel_left_eq, hpush]

/-! ## Reset, waiting and the ports -/

/-- Settles O9: the values of reset, and the lines that the configured flag opens. -/
theorem resetAndPowerCycleLeaveTheBlockIdle : Obligations.ResetAndPowerCycleLeaveTheBlockIdle :=
  ⟨⟨rfl, rfl, rfl, rfl, rfl⟩, fun _ => ⟨rfl, rfl, rfl, rfl, rfl, rfl, fun _ => ⟨rfl, rfl, rfl, rfl⟩⟩⟩

/-- Settles O10: waiting clears the response port, which reset leaves clear. -/
theorem idleBlockWaitsForARequest : Obligations.IdleBlockWaitsForARequest := by
  refine ⟨rfl, fun s hp hr => ?_⟩
  rw [step_eq_stepAt, stepAt_wait hp hr, beginStep]

/-- Settles O11: Idle's turn is the offered word's, and a wait's is the operation's in progress. -/
theorem stepRunsTheDecodedRequest : Obligations.StepRunsTheDecodedRequest := by
  refine ⟨fun s w rest i hp hr hd => ?_, fun s op k n hp => ?_, fun s op k n hp => ?_⟩
  · rw [step_eq_stepAt, stepAt_offered hp hr hd, exec_eq_execAt, beginStep]
  · rw [step_waitTx hp, exec_instr_waitTx (s := { s with resp := none }) hp, beginStep]
  · rw [step_waitDone hp, exec_instr_waitDone (s := { s with resp := none }) hp, beginStep]

/-- Settles O48: each port's definition, with the two chip-select levels distinct. -/
theorem portsShowTheState : Obligations.PortsShowTheState := by
  intro c s
  have hlevel : csLevel c s.cs = c.csActiveLevel ↔ s.cs = .asserted := by
    cases hcs : s.cs <;> cases hl : c.csActiveLevel <;> simp [csLevel, hl, Level.opposite]
  refine ⟨decide_eq_true_iff, Option.isSome_iff_ne_none, fun v hr => ?_, fun hr => ?_, rfl, fun hc => ?_, fun hc => ?_⟩
  · simp [outputs, readRespData, hr]
  · simp [outputs, readRespData, hr]
  · simp [outputs, readCsPin, hc, hlevel]
  · simp [outputs, readCsPin, hc]

end Sys2Proof.Machine
end

section
/-! Whole operations as functions: the outcomes of a transfer, and what they come to in an operation (R115, R121, R122). -/

namespace Sys2Proof.Machine

open Sys2Proof.Safety

/-! ## The three outcomes of a transfer (R115) -/

theorem transfer_outcomes (c : Config) (x : SubTransfer) (s : State) :
    NeverReady c s ∨ (∃ t1, NeverComplete c x t1 s) ∨ ∃ t1 t2, Answered c x t1 t2 s := by
  obtain ⟨t1, l1, h1⟩ | h := seen_or_not (csAssert s) .txReady c.spinMax
  · obtain ⟨t2, l2, h2⟩ | h := seen_or_not (pushedState x t1 s) .xferComplete c.spinMax
    · exact .inr (.inr ⟨t1, t2, h1, l1, h2, l2⟩)
    · exact .inr (.inl ⟨t1, h1, l1, h⟩)
  · exact .inl h

theorem transfer_neverReady {c : Config} {s : State} (h : NeverReady c s) (x : SubTransfer) :
    transfer c x s = (Config.sentinel, neverReadyEnd c x s) := by
  rw [transfer, waitFor_notSeen h]
  rfl

theorem transfer_neverComplete {c : Config} {x : SubTransfer} {t1 : Nat} {s : State} (h : NeverComplete c x t1 s) :
    transfer c x s = (Config.sentinel, neverCompleteEnd c x t1 s) := by
  obtain ⟨h1, l1, h2⟩ := h
  have hdone := waitFor_notSeen h2
  rw [pushedState] at hdone
  simp only [transfer, waitFor_seen h1 l1, hdone]
  rfl

theorem transfer_answered {c : Config} {x : SubTransfer} {t1 t2 : Nat} {s : State} (h : Answered c x t1 t2 s) :
    transfer c x s = (receivedByte x t1 t2 s, answeredEnd c x t1 t2 s) := by
  obtain ⟨h1, l1, h2, l2⟩ := h
  have hdone := waitFor_seen h2 l2
  rw [pushedState] at hdone
  simp only [transfer, waitFor_seen h1 l1, hdone]
  rfl

/-- Settles O34: the first wait is seen or not, and, seen, so is the second. -/
theorem transferHasThreeOutcomes : Obligations.TransferHasThreeOutcomes :=
  fun c x s => ⟨transfer_outcomes c x s, fun h => transfer_neverReady h x, fun _ h => transfer_neverComplete h,
    fun _ _ h => transfer_answered h⟩

/-! ## What the outcomes share -/

/-- A transfer that is not answered timed out in one of the two waits, and leaves its cause. -/
theorem transfer_not_answered {c : Config} {x : SubTransfer} {s : State} (h : ¬ ∃ t1 t2, Answered c x t1 t2 s) :
    (transfer c x s).1 = Config.sentinel ∧ (transfer c x s).2.diag ≠ none := by
  obtain hr | ⟨t1, hc⟩ | ha := transfer_outcomes c x s
  · simp [transfer_neverReady hr]
  · simp [transfer_neverComplete hc]
  · exact absurd ha h

theorem transfer_resp (c : Config) (x : SubTransfer) (s : State) : (transfer c x s).2.resp = s.resp := by
  obtain h | ⟨t1, h⟩ | ⟨t1, t2, h⟩ := transfer_outcomes c x s
  · rw [transfer_neverReady h, neverReadyEnd_resp]
  · rw [transfer_neverComplete h, neverCompleteEnd_resp]
  · rw [transfer_answered h, answeredEnd_resp]

/-- The response port does not matter to a transfer. -/
theorem transfer_beginStep (c : Config) (x : SubTransfer) (s : State) :
    transfer c x (beginStep s) = ((transfer c x s).1, beginStep (transfer c x s).2) := by
  obtain h | ⟨t1, h⟩ | ⟨t1, t2, h⟩ := transfer_outcomes c x s
  · rw [transfer_neverReady h, transfer_neverReady ((neverReady_beginStep c s).2 h), neverReadyEnd_beginStep]
  · rw [transfer_neverComplete h, transfer_neverComplete ((neverComplete_beginStep c x t1 s).2 h),
      neverCompleteEnd_beginStep]
  · rw [transfer_answered h, transfer_answered ((answered_beginStep c x t1 t2 s).2 h), answeredEnd_beginStep,
      receivedByte_beginStep]

/-- Each of the two waits makes `SPIN_MAX` samples at most (R103, R105). -/
theorem transfer_samples_le (c : Config) (x : SubTransfer) (s : State) :
    (transfer c x s).2.env.samples ≤ s.env.samples + 2 * c.spinMax := by
  obtain h | ⟨t1, h⟩ | ⟨t1, t2, h⟩ := transfer_outcomes c x s
  · rw [transfer_neverReady h, neverReadyEnd_samples]
    omega
  · have ⟨_, l1, _⟩ := h
    rw [transfer_neverComplete h, neverCompleteEnd_samples]
    omega
  · have ⟨_, l1, _, l2⟩ := h
    rw [transfer_answered h, answeredEnd_samples]
    omega

/-! ## An operation by its parts -/

theorem procedureState_onePart {op : BusOp} (h : twoParts op = false) (c : Config) (s : State) :
    procedureState c op.instr s =
      respond (responseOf op (transfer c (sub c op 0) s).1) (transfer c (sub c op 0) s).2 := by
  cases op with
  | transferR d => rfl
  | transferH d => rfl
  | rdreg a => cases h
  | wrreg a d => cases h

theorem procedureState_twoParts {op : BusOp} (h : twoParts op = true) (c : Config) (s : State) :
    procedureState c op.instr s =
      respond (responseOf op (transfer c (sub c op 1) (transfer c (sub c op 0) s).2).1)
        (transfer c (sub c op 1) (transfer c (sub c op 0) s).2).2 := by
  cases op with
  | transferR d => cases h
  | transferH d => cases h
  | rdreg a => rfl
  | wrreg a d => rfl

theorem sub_zero_hold {op : BusOp} (h : twoParts op = true) (c : Config) : (sub c op 0).hold = true :=
  (hasNext_spec c ((hasNext_zero op).trans h)).2.1

theorem sub_one_hold {op : BusOp} (h : twoParts op = true) (c : Config) : (sub c op 1).hold = false := by
  cases op with
  | transferR d => cases h
  | transferH d => cases h
  | rdreg a => rfl
  | wrreg a d => rfl

/-- The response port does not matter to an operation. -/
theorem procedureState_beginStep (c : Config) (op : BusOp) (s : State) :
    procedureState c op.instr (beginStep s) = procedureState c op.instr s := by
  cases h : twoParts op
  · simp only [procedureState_onePart h, transfer_beginStep, respond_beginStep]
  · simp only [procedureState_twoParts h, transfer_beginStep, respond_beginStep]

theorem procedureState_samples_le {op : BusOp} (h : twoParts op = true) (c : Config) (s : State) :
    (procedureState c op.instr s).env.samples ≤ s.env.samples + 4 * c.spinMax := by
  have h0 := transfer_samples_le c (sub c op 0) s
  have h1 := transfer_samples_le c (sub c op 1) (transfer c (sub c op 0) s).2
  rw [procedureState_twoParts h, respond_env]
  omega

/-- Settles O36: two waits a transfer, and two transfers a register access. -/
theorem samplesOfAnOperationAreBounded : Obligations.SamplesOfAnOperationAreBounded :=
  fun c s => ⟨fun x => transfer_samples_le c x s, fun a => procedureState_samples_le (op := .rdreg a) rfl c s,
    fun a d => procedureState_samples_le (op := .wrreg a d) rfl c s, rfl⟩

/-! ## The cause at the end of a register access (R124, R155) -/

section
variable {c : Config} {op : BusOp} {s : State} (htwo : twoParts op = true)
include htwo

theorem procedureState_data_neverReady (h : NeverReady c (transfer c (sub c op 0) s).2) :
    (procedureState c op.instr s).diag = some .txPathFull ∧
    (procedureState c op.instr s).resp = some (responseOf op Config.sentinel) := by
  rw [procedureState_twoParts htwo, transfer_neverReady h]
  exact ⟨neverReadyEnd_diag _ _ _, rfl⟩

theorem procedureState_data_neverComplete {t3 : Nat}
    (h : NeverComplete c (sub c op 1) t3 (transfer c (sub c op 0) s).2) :
    (procedureState c op.instr s).diag = some .transferIncomplete ∧
    (procedureState c op.instr s).resp = some (responseOf op Config.sentinel) := by
  rw [procedureState_twoParts htwo, transfer_neverComplete h]
  exact ⟨neverCompleteEnd_diag _ _ _ _, rfl⟩

theorem procedureState_data_answered {t3 t4 : Nat} (h : Answered c (sub c op 1) t3 t4 (transfer c (sub c op 0) s).2) :
    procedureState c op.instr s =
      respond (responseOf op (receivedByte (sub c op 1) t3 t4 (transfer c (sub c op 0) s).2))
        (answeredEnd c (sub c op 1) t3 t4 (transfer c (sub c op 0) s).2) := by
  rw [procedureState_twoParts htwo, transfer_answered h]

theorem procedureState_data_answered_diag {t3 t4 : Nat}
    (h : Answered c (sub c op 1) t3 t4 (transfer c (sub c op 0) s).2) :
    (procedureState c op.instr s).diag = diagAfterSuccess c (transfer c (sub c op 0) s).2.diag := by
  rw [procedureState_data_answered htwo h, respond_diag, answeredEnd_diag]

/-- The data phase opens a frame if the command phase left none open, and closes it. -/
theorem procedureState_data_answered_hist {t3 t4 : Nat}
    (h : Answered c (sub c op 1) t3 t4 (transfer c (sub c op 0) s).2) :
    (procedureState c op.instr s).hist =
      (transfer c (sub c op 0) s).2.hist ++ frameOpening (transfer c (sub c op 0) s).2.cs ++
        [.byteOut (sub c op 1).tx, .byteIn (receivedByte (sub c op 1) t3 t4 (transfer c (sub c op 0) s).2),
          .frameEnd] := by
  rw [procedureState_data_answered htwo h, respond_hist, answeredEnd_hist, sub_one_hold htwo]
  simp

end

/-- Two successes treat the cause as one does. -/
theorem diagAfterSuccess_twice (c : Config) (d : Option Cause) :
    diagAfterSuccess c (diagAfterSuccess c d) = diagAfterSuccess c d := by
  cases h : c.diagOnSuccess
  · simp [diagAfterSuccess_keep h]
  · simp [diagAfterSuccess_clear h]

/-- Settles O33: the data phase is the last transfer of the two. -/
theorem dataPhaseTimeoutDecidesTheCause : Obligations.DataPhaseTimeoutDecidesTheCause :=
  fun _ a d _ => ⟨fun h => procedureState_data_neverReady (op := .rdreg a) rfl h,
    fun _ h => procedureState_data_neverComplete (op := .rdreg a) rfl h,
    fun h => (procedureState_data_neverReady (op := .wrreg a d) rfl h).1,
    fun _ h => (procedureState_data_neverComplete (op := .wrreg a d) rfl h).1⟩

/-- Settles O50: a data phase that times out writes its cause, and one that is answered treats the command phase's as any
success does. -/
theorem registerAccessEndsWithTheLastCause : Obligations.RegisterAccessEndsWithTheLastCause := by
  intro c op s htwo
  refine ⟨fun h => (procedureState_data_neverReady htwo h).1, fun t3 h => (procedureState_data_neverComplete htwo h).1,
    fun t3 t4 h => ⟨fun t1 t2 h0 => ?_, fun cause h0 => ?_⟩⟩
  · rw [procedureState_data_answered_diag htwo h, transfer_answered h0, answeredEnd_diag, diagAfterSuccess_twice]
    rfl
  · have hcause : (transfer c (sub c op 0) s).2.diag = some cause := by
      obtain ⟨hr, rfl⟩ | ⟨⟨t1, hc⟩, rfl⟩ := h0
      · rw [transfer_neverReady hr, neverReadyEnd_diag]
      · rw [transfer_neverComplete hc, neverCompleteEnd_diag]
    rw [procedureState_data_answered_diag htwo h, hcause]
    rfl

/-- Settles O45: a timeout leaves a cause and a success under Clear leaves none. -/
theorem onlyTheCauseTellsSentinelFromData : Obligations.OnlyTheCauseTellsSentinelFromData := by
  intro c s
  have hcleared : ∀ x t1 t2, Answered c x t1 t2 s → c.diagOnSuccess = .clear → (transfer c x s).2.diag = none :=
    fun x t1 t2 h hpolicy => by rw [transfer_answered h, answeredEnd_diag, diagAfterSuccess_clear hpolicy]
  refine ⟨fun x t1 t2 h hff => ⟨?_, fun hpolicy => ?_, hcleared x t1 t2 h⟩, fun x hpolicy => ⟨fun hd => ?_, fun h => ?_⟩,
    fun x h => transfer_not_answered h, fun a hpolicy hd => ?_⟩
  · rw [transfer_answered h, hff]
  · rw [transfer_answered h, answeredEnd_diag, diagAfterSuccess_keep hpolicy]
  · rintro ⟨t1, t2, h⟩
    exact hd (hcleared x t1 t2 h hpolicy)
  · exact (transfer_not_answered h).2
  · rintro ⟨t1, t2, t3, t4, h0, h1⟩
    refine hd ?_
    have h1' : Answered c (sub c (.rdreg a) 1) t3 t4 (transfer c (sub c (.rdreg a) 0) s).2 := by
      rwa [transfer_answered h0]
    rw [show Instr.rdreg a = (BusOp.rdreg a).instr from rfl, procedureState_data_answered_diag rfl h1',
      diagAfterSuccess_clear hpolicy]

/-! ## The frames of a register access (R57, R123, R126) -/

/-- Answered in both phases, the bytes of both stand in one frame. -/
theorem procedureState_answered_hist {c : Config} {op : BusOp} {t1 t2 t3 t4 : Nat} {s : State} (htwo : twoParts op = true)
    (h0 : Answered c (sub c op 0) t1 t2 s)
    (h1 : Answered c (sub c op 1) t3 t4 (answeredEnd c (sub c op 0) t1 t2 s)) :
    (procedureState c op.instr s).hist =
      s.hist ++ frameOpening s.cs ++
        [.byteOut (sub c op 0).tx, .byteIn (receivedByte (sub c op 0) t1 t2 s), .byteOut (sub c op 1).tx,
          .byteIn (receivedByte (sub c op 1) t3 t4 (answeredEnd c (sub c op 0) t1 t2 s)), .frameEnd] := by
  have hx := transfer_answered h0
  rw [procedureState_data_answered_hist htwo (by rwa [hx]), hx]
  simp [answeredEnd_hist, sub_zero_hold htwo, frameOpening]

/-- Settles O46: the command byte joins the open frame or begins one, and the data byte follows it there. -/
theorem registerAccessIsOneFrame : Obligations.RegisterAccessIsOneFrame := by
  intro c op t1 t2 t3 t4 s htwo h0 h1
  rw [procedureState_answered_hist htwo h0 h1]
  refine ⟨fun hcs => ?_, fun hcs earlier f hf => ?_⟩
  · simp [framesOf_append, hcs, frameOpening, seeEvent, addToLastFrame_append]
  · simp [framesOf_append, hcs, frameOpening, seeEvent, hf, addToLastFrame_append]

/-- The last of two new frames is the last frame. -/
theorem addToLastFrame_append_two (v : Byte) (fs : List (List Byte)) (f g : List Byte) :
    addToLastFrame v (fs ++ [f, g]) = fs ++ [f, g ++ [v]] := by
  simpa using addToLastFrame_append v (fs ++ [f]) g

/-- Settles O32: only Release closes the frame of the command byte before the data byte goes out. -/
theorem unansweredCommandByteSplitsTheFrameUnderRelease :
    Obligations.UnansweredCommandByteSplitsTheFrameUnderRelease := by
  intro c op t1 t3 t4 s htwo hcs h0 h1
  have hx := transfer_neverComplete h0
  rw [procedureState_data_answered_hist htwo (by rwa [hx]), hx]
  cases hpolicy : c.csOnTimeout <;>
    simp [neverCompleteEnd_hist, sub_zero_hold htwo, hcs, framesOf_append, frameOpening, timeoutClosing,
      csAfterTimeout, timeoutReleases, hpolicy, seeEvent, addToLastFrame_append, addToLastFrame_append_two]

/-! ## The clock after a transfer (R33, R181) -/

/-- Opening or closing a frame shifts no byte. -/
theorem wireQuiet_frameOpening (cs : ChipSelect) : wireQuiet (frameOpening cs) = true := by
  cases cs <;> rfl

theorem wireQuiet_frameClosing (cs : ChipSelect) : wireQuiet (frameClosing cs) = true := by
  cases cs <;> rfl

theorem wireQuiet_timeoutExit {s : State} (h : wireQuiet s.hist = true) (c : Config) (cause : Cause) (hold : Bool) :
    wireQuiet (timeoutExit c cause hold s).hist = true := by
  rw [timeoutExit_eq, wireQuiet_append h]
  cases timeoutReleases c hold
  · rfl
  · exact wireQuiet_frameClosing s.cs

theorem wireQuiet_nextPart {s : State} (h : wireQuiet s.hist = true) (op : BusOp) (k : Fin 2) (r : Byte) :
    wireQuiet (nextPart op k r s).hist = true := by
  rw [nextPart_hist, wireQuiet_append h]
  cases hasNext op k
  · rfl
  · exact wireQuiet_frameOpening s.cs

theorem wireQuiet_sampleTx {s : State} (h : wireQuiet s.hist = true) (hunseen : s.upcoming .txReady 0 = false)
    (c : Config) (op : BusOp) (k : Fin 2) (n : Nat) : wireQuiet (sampleTx c op k n s).hist = true := by
  by_cases hn : n + 1 = c.spinMax
  · rw [sampleTx_timeout op k hunseen hn]
    exact wireQuiet_nextPart (wireQuiet_timeoutExit (s := (sample .txReady s).2) h c _ _) op k _
  · rw [sampleTx_again op k hunseen hn]
    exact h

theorem stepAt_wireQuiet {c : Config} {s t : State} (hstep : stepAt c s = .next t) (h : wireQuiet s.hist = true)
    (hunseen : ∀ op k n, s.phase = .waitTx op k n → s.upcoming .txReady 0 = false)
    (hdone : ∀ op k n, s.phase ≠ .waitDone op k n) : wireQuiet t.hist = true := by
  obtain ⟨-, -, rfl⟩ | ⟨w, rest, -, -, ⟨-, rfl⟩ | ⟨op, -, -, rfl⟩⟩ | ⟨op, k, n, hp, rfl⟩ | ⟨op, k, n, hp, -⟩ :=
    stepAt_cases hstep
  · exact h
  · exact h
  · rw [accept_hist, beginStep_hist, wireQuiet_append h]
    exact wireQuiet_frameOpening s.cs
  · exact wireQuiet_sampleTx (s := beginStep s) h (hunseen op k n hp) c op k n
  · exact absurd hp (hdone op k n)

/-- An answered transfer reads as many bytes as it pushes: one. -/
theorem wireQuiet_answeredEnd {s : State} (h : wireQuiet s.hist = true) (c : Config) (x : SubTransfer) (t1 t2 : Nat) :
    wireQuiet (answeredEnd c x t1 t2 s).hist = true := by
  rw [answeredEnd_hist, List.append_assoc, List.append_assoc, wireQuiet_append h,
    wireQuiet_append (wireQuiet_frameOpening s.cs)]
  cases x.hold <;> rfl

theorem readSck_of_quiet {s : State} (hc : s.configured = true) (h : wireQuiet s.hist = true) :
    readSck s = .ok .low := by
  simp [readSck, hc, h, Config.sckIdle]

/-- Settles O51: frame events leave the counts of bytes alone, and an answered transfer adds one to each. -/
theorem serialClockIdlesLow : Obligations.SerialClockIdlesLow := by
  refine ⟨fun s hc => by simp [readSck, hc], fun s hc h => readSck_of_quiet hc h,
    fun s t hstep h hunseen hdone => ?_, fun c x t1 t2 s hc h ha => ?_⟩
  · rw [step_eq_stepAt] at hstep
    exact stepAt_wireQuiet hstep h hunseen hdone
  · rw [transfer_answered ha]
    exact readSck_of_quiet ((answeredEnd_configured c x t1 t2 s).trans hc) (wireQuiet_answeredEnd h c x t1 t2)

end Sys2Proof.Machine
end

section
/-! Whole operations as steps: an operation's steps reach the state of its procedure, and what they come to for each answer
of the environment (R103, R105, R113 to R116, R121 to R123). -/

namespace Sys2Proof.Machine

open Sys2Proof.Safety

/-! ## A sub-transfer, and an operation, as steps (R116 against R115) -/

/-- The steps of a sub-transfer are its samples, and end in what its procedure returns. -/
theorem exists_run_part {s : State} (hr : s.resp = none) (c : Config) (op : BusOp) (k : Fin 2) :
    ∃ n, 0 < n ∧ (transfer c (sub c op k) s).2.env.samples = s.env.samples + n ∧
      runAt c n (setPhase (.waitTx op k 0) (csAssert s)) =
        .next (nextPart op k (transfer c (sub c op k) s).1 (transfer c (sub c op k) s).2) := by
  have hpos := c.spinMax_pos
  obtain h | ⟨t1, h⟩ | ⟨t1, t2, h⟩ := transfer_outcomes c (sub c op k) s
  · refine ⟨c.spinMax, hpos, ?_, ?_⟩ <;> rw [transfer_neverReady h]
    · exact neverReadyEnd_samples _ _ _
    · exact runAt_neverReady h hr
  · refine ⟨t1 + c.spinMax, by omega, ?_, ?_⟩ <;> rw [transfer_neverComplete h]
    · exact (neverCompleteEnd_samples _ _ _ _).trans (Nat.add_assoc _ _ _)
    · exact runAt_neverComplete h hr
  · have ⟨⟨hpos1, _⟩, _⟩ := h
    refine ⟨t1 + t2, by omega, ?_, ?_⟩ <;> rw [transfer_answered h]
    · exact (answeredEnd_samples _ _ _ _ _).trans (Nat.add_assoc _ _ _)
    · exact runAt_answered h hr

/-- The steps of an accepted operation are its samples, and end in the state of its procedure. -/
theorem exists_run_operation (c : Config) (op : BusOp) (s : State) :
    ∃ n, 0 < n ∧ (procedureState c op.instr s).env.samples = s.env.samples + n ∧
      runAt c n (accept op s) = .next (procedureState c op.instr s) := by
  suffices h : ∃ n, 0 < n ∧ (procedureState c op.instr (beginStep s)).env.samples = s.env.samples + n ∧
      runAt c n (accept op (beginStep s)) = .next (procedureState c op.instr (beginStep s)) by
    obtain ⟨n, hn, hsamples, hrun⟩ := h
    rw [procedureState_beginStep] at hsamples hrun
    have haccept : accept op (beginStep s) = beginStep (accept op s) := by
      rw [accept, csAssert_beginStep, ← beginStep_setPhase, accept]
    rw [haccept, runAt_beginStep c hn] at hrun
    exact ⟨n, hn, hsamples, hrun⟩
  obtain ⟨n, hn, hsamples, hrun⟩ := exists_run_part (beginStep_resp s) c op 0
  cases htwo : twoParts op with
  | false =>
    rw [nextPart_of_last ((hasNext_zero op).trans htwo), ← procedureState_onePart htwo] at hrun
    rw [procedureState_onePart htwo] at hrun ⊢
    exact ⟨n, hn, hsamples, hrun⟩
  | true =>
    have hr : (transfer c (sub c op 0) (beginStep s)).2.resp = none := transfer_resp c _ _
    obtain ⟨m, -, hsamples', hrun'⟩ := exists_run_part hr c op 1
    rw [nextPart_of_next ((hasNext_zero op).trans htwo)] at hrun
    rw [nextPart_of_last (hasNext_one op)] at hrun'
    rw [procedureState_twoParts htwo]
    refine ⟨n + m, by omega, ?_, ?_⟩
    · rw [respond_env, hsamples', hsamples, beginStep_env, Nat.add_assoc]
    · exact (runAt_add hrun m).trans hrun'

/-- From acceptance to response: as many steps as the procedure makes samples. -/
theorem exec_run_operation {op : BusOp} {s u : State} {n : Nat} (hp : s.phase = .idle) (hc : s.configured = true)
    (hu : procedureState Config.platform op.instr s = u) (hn : u.env.samples = s.env.samples + n) :
    exec op.instr s = .next (accept op s) ∧ core.run n (accept op s) = .next u := by
  obtain ⟨m, -, hsamples, hrun⟩ := exists_run_operation Config.platform op s
  obtain rfl : m = n := by rw [hu] at hsamples; omega
  exact ⟨exec_instr_idle op hp hc, by rw [core_run_eq, ← hu]; exact hrun⟩

/-! ## No state before the end is Idle -/

theorem stepAt_samples_le {c : Config} {s t : State} (h : stepAt c s = .next t) :
    t.env.samples ≤ s.env.samples + if s.phase = .idle then 0 else 1 := by
  obtain ⟨hp, -, rfl⟩ | ⟨w, rest, hp, -, ⟨-, rfl⟩ | ⟨op, -, -, rfl⟩⟩ | ⟨op, k, n, hp, rfl⟩ | ⟨op, k, n, hp, rfl⟩ :=
    stepAt_cases h
  · simp [hp]
  · simp [hp]
  · simp [hp]
  · simp [hp, sampleTx_samples]
  · simp [hp, sampleDone_samples]

/-- A run has one sample a step at most. -/
theorem runAt_samples_le {c : Config} {n : Nat} {s t : State} (h : runAt c n s = .next t) :
    t.env.samples ≤ s.env.samples + n := by
  induction n generalizing s with
  | zero => cases h; exact Nat.le_refl _
  | succ n ih =>
    cases hs : stepAt c s with
    | next u =>
      rw [runAt_succ hs] at h
      have hstep := stepAt_samples_le hs
      have hrest := ih h
      split_ifs at hstep <;> omega
    | fault r => exact nomatch r
    | refused r => rw [runAt_refused hs] at h; cases h

theorem runAt_samples_le_of_idle {c : Config} {n : Nat} {s t : State} (h : runAt c (n + 1) s = .next t)
    (hp : s.phase = .idle) : t.env.samples ≤ s.env.samples + n := by
  cases hs : stepAt c s with
  | next u =>
    rw [runAt_succ hs] at h
    have hstep := stepAt_samples_le hs
    have hrest := runAt_samples_le h
    rw [if_pos hp] at hstep
    omega
  | fault r => exact nomatch r
  | refused r => rw [runAt_refused hs] at h; cases h

/-- A run from Idle with a sample in each step but the first is not Idle in between, where a step would make none. -/
theorem not_idle_within {c : Config} {n m : Nat} {s t u : State} (h : runAt c (n + 1) s = .next t)
    (hn : t.env.samples = s.env.samples + n) (hp : s.phase = .idle) (hm : 0 < m) (hmn : m < n + 1)
    (hu : runAt c m s = .next u) : u.phase ≠ .idle := by
  intro hidle
  obtain ⟨i, rfl⟩ : ∃ i, m = i + 1 := ⟨m - 1, by omega⟩
  obtain ⟨j, rfl⟩ : ∃ j, n = i + 1 + j := ⟨n - (i + 1), by omega⟩
  rw [Nat.add_assoc, runAt_add hu] at h
  have hfirst := runAt_samples_le_of_idle hu hp
  have hsecond := runAt_samples_le_of_idle h hidle
  omega

theorem procedure_of_configured {c : Config} {i : Instr} {s : State} (h : needsBus i = true → s.configured = true) :
    procedure c i s = .next (procedureState c i s) := by
  cases hb : needsBus i <;> simp [procedure, hb, h]

/-- The step that takes a request, and the steps of its operation, which are its samples. -/
theorem exists_run_request {c : Config} {i : Instr} {s : State} {rest : List ReqWord} (hp : s.phase = .idle)
    (hr : s.requests = encode i :: rest) (hc : needsBus i = true → s.configured = true) :
    ∃ n, (procedureState c i { s with requests := rest }).env.samples = s.env.samples + n ∧
      runAt c (n + 1) s = .next (procedureState c i { s with requests := rest }) := by
  have hstep := stepAt_offered (c := c) hp hr (decode_eq_ok_iff.2 rfl)
  obtain rfl | ⟨op, rfl⟩ := instr_cases i
  · rw [execAt_rddiag, rddiag, beginStep_phase, hp] at hstep
    exact ⟨0, rfl, by rw [runAt_succ hstep]; rfl⟩
  · have hconf : s.configured = true := hc (by cases op <;> rfl)
    rw [execAt_instr, busOp_idle (s := { beginStep s with requests := rest }) op hp hconf] at hstep
    obtain ⟨n, -, hsamples, hrun⟩ := exists_run_operation c op (beginStep { s with requests := rest })
    rw [procedureState_beginStep] at hsamples hrun
    exact ⟨n, hsamples, (runAt_succ hstep n).trans hrun⟩

theorem procedureState_phase (c : Config) (i : Instr) (s : State) : (procedureState c i s).phase = .idle := by
  cases i <;> rfl

/-- Settles O35: the operation's samples are its steps after the first, and a step from Idle makes no sample. -/
theorem stepsReachTheProcedure : Obligations.StepsReachTheProcedure := by
  intro c i s rest hp hr hc
  obtain ⟨n, hsamples, hrun⟩ := exists_run_request (c := c) hp hr hc
  refine ⟨_, n + 1, procedure_of_configured hc, procedureState_phase c i _, ?_, hrun, fun m u hm hmn hu => ?_⟩
  · rw [hsamples]
    omega
  · exact not_idle_within hrun hsamples hp hm hmn hu

/-! ## Back to Idle (R111, R194) -/

/-- The most steps that an operation in progress can take from here. -/
def budget (c : Config) : Phase → Nat
  | .idle => 0
  | .waitTx op k n => (if hasNext op k then 2 * c.spinMax else 0) + c.spinMax + (c.spinMax - n)
  | .waitDone op k n => (if hasNext op k then 2 * c.spinMax else 0) + (c.spinMax - n)

theorem budget_le (c : Config) (p : Phase) : budget c p ≤ 4 * c.spinMax := by
  cases p with
  | idle => exact Nat.zero_le _
  | waitTx op k n => rw [budget]; split_ifs <;> omega
  | waitDone op k n => rw [budget]; split_ifs <;> omega

/-- What is left after a sub-transfer: the two waits of the next one, if there is one. -/
theorem budget_nextPart (c : Config) (op : BusOp) (k : Fin 2) (r : Byte) (s : State) :
    budget c (nextPart op k r s).phase = if hasNext op k then 2 * c.spinMax else 0 := by
  obtain ⟨hnext, h⟩ | ⟨hnext, h⟩ := nextPart_cases op k r s <;> rw [h, hnext]
  · rw [setPhase_phase, budget, hasNext_one]
    simp
    omega
  · rfl

theorem budget_sampleTx_lt {c : Config} {op : BusOp} {k : Fin 2} {n : Nat} (hn : n < c.spinMax) (s : State) :
    budget c (sampleTx c op k n s).phase < budget c (.waitTx op k n) := by
  obtain h | ⟨hlast, h⟩ | ⟨-, h⟩ := sampleTx_cases c op k n s <;> rw [h]
  · simp only [setPhase_phase, budget]
    omega
  · simp only [setPhase_phase, budget]
    omega
  · rw [budget_nextPart, budget]
    omega

theorem budget_sampleDone_lt {c : Config} {op : BusOp} {k : Fin 2} {n : Nat} (hn : n < c.spinMax) (s : State) :
    budget c (sampleDone c op k n s).phase < budget c (.waitDone op k n) := by
  obtain h | ⟨hlast, h⟩ | ⟨-, h⟩ := sampleDone_cases c op k n s <;> rw [h]
  · rw [budget_nextPart, budget]
    omega
  · simp only [setPhase_phase, budget]
    omega
  · rw [budget_nextPart, budget]
    omega

/-- While an operation is in progress a step is never refused, and uses up some of the budget. -/
theorem stepAt_busy {c : Config} {s : State} (hl : legalPhase c s.phase) (hbusy : s.phase ≠ .idle) :
    ∃ t, stepAt c s = .next t ∧ budget c t.phase < budget c s.phase := by
  cases hp : s.phase with
  | idle => exact absurd hp hbusy
  | waitTx op k n =>
    rw [hp] at hl
    exact ⟨_, stepAt_waitTx hp, budget_sampleTx_lt hl.2 _⟩
  | waitDone op k n =>
    rw [hp] at hl
    exact ⟨_, stepAt_waitDone hp, budget_sampleDone_lt hl.2 _⟩

theorem exists_run_to_idle {c : Config} {s : State} (hl : legalPhase c s.phase) :
    ∃ n t, n ≤ budget c s.phase ∧ runAt c n s = .next t ∧ t.phase = .idle := by
  induction hb : budget c s.phase using Nat.strong_induction_on generalizing s with
  | _ b ih =>
    by_cases hidle : s.phase = .idle
    · exact ⟨0, s, Nat.zero_le _, rfl, hidle⟩
    · obtain ⟨t, hstep, hlt⟩ := stepAt_busy hl hidle
      obtain ⟨n, u, hn, hrun, hu⟩ := ih _ (hb ▸ hlt) (stepAt_legalPhase hl hstep) rfl
      exact ⟨n + 1, u, by omega, by rw [runAt_succ hstep, hrun], hu⟩

/-- Settles O37: every step of an operation in progress uses up some of its bounded budget. -/
theorem everyOperationReturnsToIdle : Obligations.EveryOperationReturnsToIdle := by
  intro s hi
  obtain ⟨n, t, hn, hrun, ht⟩ := exists_run_to_idle hi.phase_legal
  exact ⟨n, t, hn.trans (budget_le _ _), by rw [core_run_eq]; exact hrun, ht⟩

/-! ## TRANSFER (R113, R114, R108) -/

/-- A TRANSFER with its hold flag, as the operation in progress. -/
def transferOp (d : Byte) (hold : Bool) : BusOp := if hold then .transferH d else .transferR d

theorem transferOp_instr (d : Byte) (hold : Bool) :
    (transferOp d hold).instr = if hold then .transferH d else .transferR d := by
  cases hold <;> rfl

/-- The procedure of a TRANSFER: its one transfer, and the byte it returns as response. -/
theorem procedureState_transferOp (c : Config) (d : Byte) (hold : Bool) (s : State) :
    procedureState c (transferOp d hold).instr s =
      respond (.byte (transfer c { tx := d, hold := hold } s).1) (transfer c { tx := d, hold := hold } s).2 := by
  cases hold <;> rfl

/-- The run of a TRANSFER, given what its transfer comes to. -/
theorem exec_run_transferOp {d : Byte} {hold : Bool} {s u : State} {r : Byte} {n : Nat} (hp : s.phase = .idle)
    (hc : s.configured = true) (h : transfer Config.platform { tx := d, hold := hold } s = (r, u))
    (hn : u.env.samples = s.env.samples + n) :
    exec (if hold then .transferH d else .transferR d) s = .next (accept (transferOp d hold) s) ∧
    core.run n (accept (transferOp d hold) s) = .next (respond (.byte r) u) := by
  rw [← transferOp_instr]
  exact exec_run_operation hp hc (by rw [procedureState_transferOp, h]) hn

/-- TRANSFER with both flags in time, whether it holds or not. -/
theorem exec_run_transferOp_answered {d : Byte} {hold : Bool} {t1 t2 : Nat} {s : State} (hp : s.phase = .idle)
    (hc : s.configured = true) (h : Answered Config.platform { tx := d, hold := hold } t1 t2 s) :
    ∃ t u : State, exec (if hold then .transferH d else .transferR d) s = .next t ∧ core.run (t1 + t2) t = .next u ∧
      u.resp = some (.byte (receivedByte { tx := d, hold := hold } t1 t2 s)) ∧
      u.reports = s.reports ++ [.byte (receivedByte { tx := d, hold := hold } t1 t2 s)] ∧
      u.cs = (if hold then .asserted else .released) ∧ u.phase = .idle ∧
      u.hist = s.hist ++ frameOpening s.cs ++
        ([.byteOut d, .byteIn (receivedByte { tx := d, hold := hold } t1 t2 s)] ++ if hold then [] else [.frameEnd]) ∧
      u.diag = diagAfterSuccess Config.platform s.diag ∧ u.configured = s.configured ∧ u.requests = s.requests ∧
      u.env.samples = s.env.samples + t1 + t2 ∧ u.env.reads = s.env.reads + 1 := by
  obtain ⟨hexec, hrun⟩ := exec_run_transferOp hp hc (transfer_answered h)
    ((answeredEnd_samples _ _ _ _ _).trans (Nat.add_assoc _ _ _))
  exact ⟨_, _, hexec, hrun, rfl, by simp, by simp, rfl, by simp [answeredEnd_hist], by simp, by simp, by simp,
    by simp, by simp⟩

/-- Settles O25: the answered transfer that does not hold. -/
theorem transferReleaseExchangesOneByte : Obligations.TransferReleaseExchangesOneByte :=
  fun _ _ _ _ hp hc h => exec_run_transferOp_answered (hold := false) hp hc h

/-- Settles O26: the answered transfer that holds. -/
theorem transferHoldExchangesOneByte : Obligations.TransferHoldExchangesOneByte :=
  fun _ _ _ _ hp hc h => exec_run_transferOp_answered (hold := true) hp hc h

/-- Settles O29: the end of a transfer whose first wait runs out. -/
theorem transferTimesOutWaitingForTransmitReady : Obligations.TransferTimesOutWaitingForTransmitReady := by
  intro d hold s hp hc h
  obtain ⟨hexec, hrun⟩ := exec_run_transferOp hp hc (transfer_neverReady h { tx := d, hold := hold })
    (neverReadyEnd_samples _ _ _)
  exact ⟨_, _, hexec, hrun, rfl, by simp [Config.sentinel], by simp, rfl, by simp, by simp [neverReadyEnd_hist], by simp,
    by simp, by simp, by simp⟩

/-- Settles O30: the end of a transfer whose second wait runs out. -/
theorem transferTimesOutWaitingForTransferComplete : Obligations.TransferTimesOutWaitingForTransferComplete := by
  intro d hold t1 s hp hc h
  obtain ⟨hexec, hrun⟩ := exec_run_transferOp hp hc (transfer_neverComplete h)
    ((neverCompleteEnd_samples _ _ _ _).trans (Nat.add_assoc _ _ _))
  exact ⟨_, _, hexec, hrun, rfl, by simp [Config.sentinel], by simp, rfl, by simp, by simp [neverCompleteEnd_hist],
    by simp, by simp, by simp, by simp⟩

/-! ## RDREG and WRREG (R121 to R123) -/

/-- A register access answered in both phases, whichever of the two it is. -/
theorem exec_run_access_answered {op : BusOp} {t1 t2 t3 t4 : Nat} {s : State} (htwo : twoParts op = true)
    (hp : s.phase = .idle) (hc : s.configured = true) (h0 : Answered Config.platform (sub Config.platform op 0) t1 t2 s)
    (h1 : Answered Config.platform (sub Config.platform op 1) t3 t4
      (answeredEnd Config.platform (sub Config.platform op 0) t1 t2 s)) :
    ∃ t u : State, exec op.instr s = .next t ∧ core.run (t1 + t2 + (t3 + t4)) t = .next u ∧
      ∃ x y, x = receivedByte (sub Config.platform op 0) t1 t2 s ∧
        y = receivedByte (sub Config.platform op 1) t3 t4
          (answeredEnd Config.platform (sub Config.platform op 0) t1 t2 s) ∧
        u.resp = some (responseOf op y) ∧ u.reports = s.reports ++ [responseOf op y] ∧ u.cs = .released ∧
        u.phase = .idle ∧
        u.hist = s.hist ++ frameOpening s.cs ++
          [.byteOut (sub Config.platform op 0).tx, .byteIn x, .byteOut (sub Config.platform op 1).tx, .byteIn y,
            .frameEnd] ∧
        u.diag = diagAfterSuccess Config.platform s.diag ∧ u.configured = s.configured ∧ u.requests = s.requests ∧
        u.env.samples = s.env.samples + t1 + t2 + t3 + t4 ∧ u.env.reads = s.env.reads + 2 := by
  have hhist := procedureState_answered_hist htwo h0 h1
  have hx := transfer_answered h0
  have hu := procedureState_data_answered htwo (s := s) (t3 := t3) (t4 := t4) (by rwa [hx])
  rw [hx] at hu
  rw [hu] at hhist
  obtain ⟨hexec, hrun⟩ := exec_run_operation (n := t1 + t2 + (t3 + t4)) hp hc hu (by simp [Nat.add_assoc])
  exact ⟨_, _, hexec, hrun, _, _, rfl, rfl, rfl, by simp, by simp [sub_one_hold htwo], rfl, hhist,
    by simp [diagAfterSuccess_twice], by simp, by simp, by simp, by simp⟩

/-- Settles O27: RDREG answered in both phases. -/
theorem registerReadIsTwoTransfersInOneFrame : Obligations.RegisterReadIsTwoTransfersInOneFrame :=
  fun a _ _ _ _ _ hp hc h0 h1 => exec_run_access_answered (op := .rdreg a) rfl hp hc h0 h1

/-- Settles O28: WRREG answered in both phases. -/
theorem registerWriteIsTwoTransfersInOneFrame : Obligations.RegisterWriteIsTwoTransfersInOneFrame :=
  fun a d _ _ _ _ _ hp hc h0 h1 => exec_run_access_answered (op := .wrreg a d) rfl hp hc h0 h1

/-- The events before the data phase of a register access that began a frame and lost its command byte. -/
def lostCommandEvents (c : Config) : List BusEvent :=
  match c.csOnTimeout with
  | .followHold => [.frameStart]
  | .release => [.frameStart, .frameEnd, .frameStart]
  | .keep => [.frameStart]

/-- The data byte then goes out as the first of its frame. -/
theorem framesOf_lostCommand (c : Config) (h : List BusEvent) (v y : Byte) :
    (framesOf (h ++ lostCommandEvents c ++ [.byteOut v, .byteIn y, .frameEnd])).getLast? = some [v] := by
  cases hpolicy : c.csOnTimeout <;>
    simp [lostCommandEvents, hpolicy, framesOf_append, seeEvent, addToLastFrame_append, addToLastFrame_append_two]

theorem procedureState_lostCommand_hist {c : Config} {op : BusOp} {t3 t4 : Nat} {s : State} (htwo : twoParts op = true)
    (hcs : s.cs = .released) (h0 : NeverReady c s)
    (h1 : Answered c (sub c op 1) t3 t4 (neverReadyEnd c (sub c op 0) s)) :
    (procedureState c op.instr s).hist =
      s.hist ++ lostCommandEvents c ++
        [.byteOut (sub c op 1).tx, .byteIn (receivedByte (sub c op 1) t3 t4 (neverReadyEnd c (sub c op 0) s)),
          .frameEnd] := by
  have hx := transfer_neverReady h0 (sub c op 0)
  rw [procedureState_data_answered_hist htwo (by rwa [hx]), hx]
  cases hpolicy : c.csOnTimeout <;>
    simp [neverReadyEnd_hist, sub_zero_hold htwo, hcs, frameOpening, timeoutClosing, csAfterTimeout, timeoutReleases,
      hpolicy, lostCommandEvents]

/-- Settles O31: under no policy has a byte gone out before the data byte in the frame that it leaves in. -/
theorem lostCommandByteLetsTheDataByteLead : Obligations.LostCommandByteLetsTheDataByteLead := by
  intro op t3 t4 s htwo hp hc hcs h0 h1
  have hhist := procedureState_lostCommand_hist htwo hcs h0 h1
  have hx := transfer_neverReady h0 (sub Config.platform op 0)
  have hu := procedureState_data_answered htwo (s := s) (t3 := t3) (t4 := t4) (by rwa [hx])
  rw [hx] at hu
  rw [hu] at hhist
  obtain ⟨hexec, hrun⟩ := exec_run_operation (n := Config.platform.spinMax + (t3 + t4)) hp hc hu (by simp [Nat.add_assoc])
  refine ⟨_, _, _, hexec, hrun, rfl, by simp [sub_one_hold htwo], rfl, hhist, ?_, ?_⟩
  · rw [hhist]
    exact framesOf_lostCommand _ _ _ _
  · rw [respond_diag, answeredEnd_diag, neverReadyEnd_diag]
    rfl

end Sys2Proof.Machine
end
